-- ==== Sys2Proof/Word.lean ====
section
/-! DEFINITION. The word type of the machine and its fixed bounds (00_scope.md R5, R7). -/

namespace Sys2Proof

/-- A signed 32-bit word: the unit of memory, of both stacks and of the image (R5, R12). Its signed value is
`BitVec.toInt`, its two's-complement pattern `bits(w)` is the bit vector itself (R7). -/
abbrev Word := BitVec 32

/-- One byte of the binary image file (30_encoding.md R91); nothing inside the machine is a byte (R60). -/
abbrev Byte := BitVec 8

/-- `MIN_SIGN = -2^31` (R5). -/
abbrev minSign : Int := -2147483648

/-- `MAX_SIGN = 2^31 - 1` (R5). -/
abbrev maxSign : Int := 2147483647

/-- `RANGE = MAX_SIGN - MIN_SIGN + 1 = 2^32` (R5). -/
abbrev wordRange : Int := 4294967296

end Sys2Proof
end

