-- ==== Sys2Proof/Machine/Cells.lean ====
section
/-! DEFINITION. An array of Words as sparse plain data: the memory and the two stacks' cells. -/

namespace Sys2Proof.Machine

/-- An array of Words: (index, word) pairs, indices strictly rising, no word 0; an index not listed reads as 0. The cell
of this hardware is a whole Word (20_memory.md R50, R60). [7] -/
abbrev Cells := List (Nat × Word)

/-- The word at an index; 0 where nothing is listed (10_state.md R36, D3, D23). [7] [8] -/
def Cells.read : Cells → Nat → Word
  | [], _ => 0#32
  | (k, v) :: rest, a => if k = a then v else Cells.read rest a

/-- Write a word at an index, keeping the canonical form: writing 0 removes the entry. -/
def Cells.write : Cells → Nat → Word → Cells
  | [], a, v => if v = 0#32 then [] else [(a, v)]
  | (k, w) :: rest, a, v =>
    if a < k then (if v = 0#32 then (k, w) :: rest else (a, v) :: (k, w) :: rest)
    else if a = k then (if v = 0#32 then rest else (a, v) :: rest)
    else (k, w) :: Cells.write rest a v

/-- Every listed index is at least `lo`, indices rise strictly, and no listed word is 0. -/
def Cells.wfFrom : Nat → Cells → Bool
  | _, [] => true
  | lo, (k, v) :: rest => decide (lo ≤ k) && decide (v ≠ 0#32) && Cells.wfFrom (k + 1) rest

/-- The canonical form. -/
def Cells.wf (c : Cells) : Bool := Cells.wfFrom 0 c

/-- Every listed index is below `n`: the array has no cell outside its size. -/
def Cells.within (n : Nat) : Cells → Bool
  | [] => true
  | (k, _) :: rest => decide (k < n) && Cells.within n rest

/-- The array that holds a list of words at consecutive indices from `n`, and 0 elsewhere. -/
def Cells.ofListFrom (n : Nat) : List Word → Cells
  | [] => []
  | w :: ws => if w = 0#32 then Cells.ofListFrom (n + 1) ws else (n, w) :: Cells.ofListFrom (n + 1) ws

/-- The array that holds a list of words from index 0. -/
def Cells.ofList (ws : List Word) : Cells := Cells.ofListFrom 0 ws

end Sys2Proof.Machine
end

