-- ==== Sys2Proof/Config.lean ====
section
/-! DEFINITION. What an implementation of the machine fixes: the parameters of 00_scope.md R6, as plain data, and the
one free value of the model. The parameters' values at reset are in Machine/Params.lean, the default opcode codes in
Decode.lean. -/

namespace Sys2Proof

/-- The 17 opcode names, in the order of 00_scope.md R1 (the count is settled in 90_conflicts.md C1). -/
inductive Mnemonic where
  | HLT | JMP | JZ | CALL | RET | GET_VAL | STORE_VAL | PEEK | PUSH | DROP | PUSHR | DROPR
  | ADD | SUB | MOD | EQ | OR
  deriving DecidableEq, Repr

/-- All 17 opcodes, in the order of R1. -/
def Mnemonic.all : List Mnemonic :=
  [.HLT, .JMP, .JZ, .CALL, .RET, .GET_VAL, .STORE_VAL, .PEEK, .PUSH, .DROP, .PUSHR, .DROPR,
   .ADD, .SUB, .MOD, .EQ, .OR]

/-- The parameter `OPC` (R6, 30_encoding.md R85): one code for each of the 17 mnemonics. -/
structure OpcMap where
  hlt : Word
  jmp : Word
  jz : Word
  call : Word
  ret : Word
  getVal : Word
  storeVal : Word
  peek : Word
  push : Word
  drop : Word
  pushr : Word
  dropr : Word
  add : Word
  sub : Word
  mod : Word
  eq : Word
  or : Word
  deriving DecidableEq, Repr

/-- `OPC(m)`: the code of a mnemonic (R85). -/
def OpcMap.code (o : OpcMap) : Mnemonic → Word
  | .HLT => o.hlt
  | .JMP => o.jmp
  | .JZ => o.jz
  | .CALL => o.call
  | .RET => o.ret
  | .GET_VAL => o.getVal
  | .STORE_VAL => o.storeVal
  | .PEEK => o.peek
  | .PUSH => o.push
  | .DROP => o.drop
  | .PUSHR => o.pushr
  | .DROPR => o.dropr
  | .ADD => o.add
  | .SUB => o.sub
  | .MOD => o.mod
  | .EQ => o.eq
  | .OR => o.or

/-- The constraint R6 and R85 put on `OPC`: it is injective. -/
def OpcMap.Injective (o : OpcMap) : Prop :=
  ∀ m n : Mnemonic, o.code m = o.code n → m = n

/-- The parameter `MOD_FN` (R6, 43_alu.md R154): one of the two readings the spec names, or the implementation's own
function. [12] -/
inductive ModFn where
  /-- the spec's default (D11): floored remainder, a zero divisor faults -/
  | floored
  /-- truncated remainder, a zero divisor faults -/
  | truncated
  /-- any other function to a Word or a fault: `Config.modOwn` -/
  | own
  deriving DecidableEq, Repr

/-- The parameter `OR_FN` (R6, 43_alu.md R156): one of the three readings of 92_eei_decisions.md D13, or the
implementation's own function. [12] -/
inductive OrFn where
  /-- the spec's default (D13): bitwise or of the two patterns -/
  | bitwise
  /-- 0 or 1 -/
  | logical
  /-- the left operand unless it is 0, then the right -/
  | firstNonZero
  /-- any other function that is 0 exactly when both operands are: made from `Config.orOwn` -/
  | own
  deriving DecidableEq, Repr

/-- What an implementation fixes: its own `MOD_FN`, of `SOS` and `TOS`, `none` where it faults. R6 allows every total
function to a Word or a fault, and nothing here constrains it. [12] -/
opaque Config.modOwn : Word → Word → Option Word

/-- What an implementation fixes: its own `OR_FN`, of `SOS` and `TOS`. The constraint R6 puts on it is applied where it is
used (Machine/Alu.lean). [12] -/
opaque Config.orOwn : Word → Word → Word

/-- The parameters of 00_scope.md R6 that the step function depends on. They are arguments of the step in the spec and
data in State here, written by no step. [2] -/
structure Config where
  /-- `OPC`. -/
  opc : OpcMap
  /-- `MEM_SIZE`, the number of cells of the memory array. -/
  memSize : Nat
  /-- `DSTACK_CAP`, the operand stack's capacity. -/
  dstackCap : Nat
  /-- `RSTACK_CAP`, the return stack's capacity. -/
  rstackCap : Nat
  /-- `TICK_LIMIT`, the driver's tick budget; `none` is infinity. -/
  tickLimit : Option Nat
  /-- `MOD_FN`. -/
  modFn : ModFn
  /-- `OR_FN`. -/
  orFn : OrFn
  /-- `EQ_TRUE`, the word EQ gives for equal operands. -/
  eqTrue : Word
  /-- `DROP_TICKS`, the execute ticks of DROP and DROPR. -/
  dropTicks : Nat
  deriving DecidableEq, Repr

/-- The constraints R6 puts on the parameters. That of `OR_FN` holds of each of its readings by their definition (lemma
`orValue_eq_zero_iff` in Laws/Exec.lean), and `MOD_FN` has none. -/
structure Config.WellFormed (c : Config) : Prop where
  opc_injective : c.opc.Injective
  memSize_le : (c.memSize : Int) ≤ maxSign
  dstackCap_pos : 1 ≤ c.dstackCap
  rstackCap_pos : 1 ≤ c.rstackCap
  eqTrue_ne : c.eqTrue ≠ 0#32
  dropTicks_le : c.dropTicks ≤ 1

/-- FREE VALUE: the Word left by `PC + 1` when `PC = MAX_SIGN`. No Word is `MAX_SIGN + 1` and 10_state.md R22 says `PC`
never wraps, so the spec states no value. [10] -/
opaque Config.pcPastMax : Word

end Sys2Proof
end

