-- ==== Sys2Proof/Syntax.lean ====
section
/-! DEFINITION. The instructions: one constructor for each row of spec/opcode_table.json (30_encoding.md R81, R85). -/

namespace Sys2Proof

/-- An instruction as decoded. A two-word instruction carries its operand word, the whole second Word taken as it is
(R82); `none` says that the cell after the opcode does not exist, so that reading the operand raises FetchOutOfRange
(60_exceptions.md R207). [11] -/
inductive Instr where
  /-- halt (R100) -/
  | hlt
  /-- jump (R101) -/
  | jmp (target : Option Word)
  /-- pop, jump if it was zero (R102) -/
  | jz (target : Option Word)
  /-- call subroutine (R103) -/
  | call (target : Option Word)
  /-- return from subroutine (R104) -/
  | ret
  /-- load (R120) -/
  | getVal
  /-- store (R121) -/
  | storeVal
  /-- copy a return-stack value to the operand stack (R131) -/
  | peek (k : Option Word)
  /-- push an immediate on the operand stack (R132) -/
  | push (imm : Option Word)
  /-- discard the top of the operand stack (R133) -/
  | drop
  /-- push an immediate on the return stack (R134) -/
  | pushr (imm : Option Word)
  /-- discard the top of the return stack (R135) -/
  | dropr
  /-- addition (R152) -/
  | add
  /-- subtraction (R153) -/
  | sub
  /-- remainder (R154) -/
  | mod
  /-- equality (R155) -/
  | eq
  /-- or (R156) -/
  | or
  deriving DecidableEq, Repr

end Sys2Proof
end

