-- ==== Sys2Proof/WellFormed.lean ====
section
/-! DEFINITION. Well-formed instructions: every two-word instruction has its operand word (30_encoding.md R80, R81). -/

namespace Sys2Proof

/-- The one check: a two-word instruction (W2 of R81) carries its operand; a one-word instruction is always well formed. -/
def Instr.wf : Instr → Bool
  | .jmp o | .jz o | .call o | .peek o | .push o | .pushr o => o.isSome
  | .hlt | .ret | .getVal | .storeVal | .drop | .dropr | .add | .sub | .mod | .eq | .or => true

end Sys2Proof
end

