-- ==== Sys2Proof/Decode.lean ====
section
/-! DEFINITION. Decoding and encoding: the opcode map, instructions to and from Words, and the binary image codec
(30_encoding.md). -/

namespace Sys2Proof

/-- The default `OPC` (30_encoding.md R85, D1): the mnemonics numbered from 0 in the order of R1. [3] -/
def defaultOpc : OpcMap where
  hlt := 0#32
  jmp := 1#32
  jz := 2#32
  call := 3#32
  ret := 4#32
  getVal := 5#32
  storeVal := 6#32
  peek := 7#32
  push := 8#32
  drop := 9#32
  pushr := 10#32
  dropr := 11#32
  add := 12#32
  sub := 13#32
  mod := 14#32
  eq := 15#32
  or := 16#32

/-- Which mnemonics have an operand word (format W2), R81. -/
def Mnemonic.hasOperand : Mnemonic → Bool
  | .JMP | .JZ | .CALL | .PUSH | .PUSHR | .PEEK => true
  | .HLT | .RET | .GET_VAL | .STORE_VAL | .DROP | .DROPR | .ADD | .SUB | .MOD | .EQ | .OR => false

/-- Length of an instruction in Words, learnt from the mnemonic alone (R84). -/
def Mnemonic.words (m : Mnemonic) : Nat := if m.hasOperand then 2 else 1

/-- The mnemonic of an instruction. -/
def Instr.mnemonic : Instr → Mnemonic
  | .hlt => .HLT
  | .jmp _ => .JMP
  | .jz _ => .JZ
  | .call _ => .CALL
  | .ret => .RET
  | .getVal => .GET_VAL
  | .storeVal => .STORE_VAL
  | .peek _ => .PEEK
  | .push _ => .PUSH
  | .drop => .DROP
  | .pushr _ => .PUSHR
  | .dropr => .DROPR
  | .add => .ADD
  | .sub => .SUB
  | .mod => .MOD
  | .eq => .EQ
  | .or => .OR

/-- The operand word an instruction carries, if any. -/
def Instr.operand : Instr → Option Word
  | .jmp o | .jz o | .call o | .peek o | .push o | .pushr o => o
  | .hlt | .ret | .getVal | .storeVal | .drop | .dropr | .add | .sub | .mod | .eq | .or => none

/-- The instruction of a mnemonic with the word after its opcode (`none` where there is no such cell); a one-word
instruction leaves that word alone (R81). -/
def Instr.ofMnemonic (m : Mnemonic) (o : Option Word) : Instr :=
  match m with
  | .HLT => .hlt
  | .JMP => .jmp o
  | .JZ => .jz o
  | .CALL => .call o
  | .RET => .ret
  | .GET_VAL => .getVal
  | .STORE_VAL => .storeVal
  | .PEEK => .peek o
  | .PUSH => .push o
  | .DROP => .drop
  | .PUSHR => .pushr o
  | .DROPR => .dropr
  | .ADD => .add
  | .SUB => .sub
  | .MOD => .mod
  | .EQ => .eq
  | .OR => .or

/-- Why Words do not decode. -/
inductive DecodeError where
  /-- no opcode has this code (R83, R87) -/
  | illegalOpcode (w : Word)
  /-- there is no opcode word -/
  | noWord
  /-- bytes that are not whole Words (R94) -/
  | partialWord
  deriving DecidableEq, Repr

/-- R83: the mnemonic whose code equals the whole opcode word. -/
def mnemonicOf (opc : OpcMap) (w : Word) : Option Mnemonic :=
  Mnemonic.all.find? (fun m => opc.code m == w)

/-- Decode an opcode word `w` together with the word in the next cell, if that cell exists (R82, R83). -/
def decode (opc : OpcMap) (w : Word) (next : Option Word) : Except DecodeError Instr :=
  match mnemonicOf opc w with
  | none => .error (.illegalOpcode w)
  | some m => .ok (Instr.ofMnemonic m next)

/-- Decode the first instruction of a list of Words and give the Words after it (R84). -/
def decodeWords (opc : OpcMap) : List Word → Except DecodeError (Instr × List Word)
  | [] => .error .noWord
  | w :: rest =>
    match decode opc w rest.head? with
    | .error e => .error e
    | .ok i => .ok (i, rest.drop (i.mnemonic.words - 1))

/-- The Words of an instruction: the opcode word, then the operand word if there is one (R80, R82). -/
def encode (opc : OpcMap) (i : Instr) : List Word :=
  opc.code i.mnemonic :: i.operand.toList

/-- `encode_word` (R91): 4 bytes, the least significant first. -/
def encodeWord (w : Word) : List Byte :=
  [BitVec.ofNat 8 w.toNat, BitVec.ofNat 8 (w.toNat / 256), BitVec.ofNat 8 (w.toNat / 65536),
   BitVec.ofNat 8 (w.toNat / 16777216)]

/-- The Word of a 4-byte chunk (R92). -/
def wordOfBytes (b0 b1 b2 b3 : Byte) : Word :=
  BitVec.ofNat 32 (b0.toNat + 256 * b1.toNat + 65536 * b2.toNat + 16777216 * b3.toNat)

/-- `encode_image` (R91). -/
def encodeImage (ws : List Word) : List Byte := ws.flatMap encodeWord

/-- `decode_image` (R92): 4-byte chunks until the end; `none` for a partial last chunk (R94). -/
def decodeImage : List Byte → Option (List Word)
  | [] => some []
  | b0 :: b1 :: b2 :: b3 :: rest =>
    match decodeImage rest with
    | none => none
    | some ws => some (wordOfBytes b0 b1 b2 b3 :: ws)
  | _ => none

/-- Decode the first instruction of a byte string that holds Words as the image file does (R91, R92). -/
def decodeBytes (opc : OpcMap) (bs : List Byte) : Except DecodeError (Instr × List Word) :=
  match decodeImage bs with
  | none => .error .partialWord
  | some ws => decodeWords opc ws

/-- The two Words of an instruction whose low `nbits` bits are `w` and whose other bits are 0: the first Word is bits
31..0, the second bits 63..32. -/
def tableWords (nbits w : Nat) : Word × Word :=
  (BitVec.ofNat 32 (w % 2 ^ nbits), BitVec.ofNat 32 (w % 2 ^ nbits / 2 ^ 32))

/-- What the decoder reads under the default `OPC` from an instruction whose bits, numbered as spec/opcode_table.json
numbers them, are `w`. -/
def decodeTableWord (nbits w : Nat) : Option Instr :=
  match decodeWords defaultOpc [(tableWords nbits w).1, (tableWords nbits w).2] with
  | .ok (i, _) => some i
  | .error _ => none

end Sys2Proof
end

