-- ==== Sys2Proof/Machine/Params.lean ====
section
/-! DEFINITION. The parameters' values at `State.reset`: the defaults of 00_scope.md R6 where there is one, and the
choices the log names where the spec leaves the parameter open. -/

namespace Sys2Proof.Machine

/-- Both capacities at reset: 64, the value 95_test_vectors.md assumes (R6 leaves them OPEN). [4] -/
def defaultStackCap : Nat := 64

/-- The parameters of a machine with `memSize` cells of memory and otherwise the defaults of R6 (D1, D11 to D13, D16),
capacities of 64 [4] and no tick limit [6]. -/
def defaultConfig (memSize : Nat) : Config where
  opc := defaultOpc
  memSize := memSize
  dstackCap := defaultStackCap
  rstackCap := defaultStackCap
  tickLimit := none
  modFn := .floored
  orFn := .bitwise
  eqTrue := 1#32
  dropTicks := 1

end Sys2Proof.Machine
end

