-- ==== Sys2Proof/Machine/State.lean ====
section
/-! DEFINITION. The architectural state (10_state.md R20), the conditions that end a run (60_exceptions.md), the reasons
a step can stop, and the state after reset. -/

namespace Sys2Proof.Machine

/-- Whether a data access was a read or a write (60_exceptions.md R205, the info of R213 and R214). -/
inductive AccessKind where
  | read
  | write
  deriving DecidableEq, Repr

/-- The faults of the machine, the closed enumeration of 60_exceptions.md R205, each with the info recorded. They are
values of STATUS, reached by a next state, not stops of the model. [1] -/
inductive FaultKind where
  /-- the opcode word matches no opcode (R206) -/
  | illegalOpcode (w : Word)
  /-- an opcode or operand word outside memory (R207) -/
  | fetchOutOfRange (addr : Word)
  /-- too few operand-stack values (R208) -/
  | dStackUnderflow
  /-- the operand stack is full (R209) -/
  | dStackOverflow
  /-- the return stack is empty (R210) -/
  | rStackUnderflow
  /-- the return stack is full (R211) -/
  | rStackOverflow
  /-- a PEEK offset that names no live return-stack cell (R212) -/
  | rStackIndex (k : Word)
  /-- a data access to a cell that does not exist (R213) -/
  | dataAddressOutOfRange (kind : AccessKind) (addr : Word)
  /-- a data read of the output address or write of the input address (R214) -/
  | accessDirection (kind : AccessKind) (addr : Word)
  /-- MOD where `MOD_FN` faults, by default on a zero divisor (R216) [12] -/
  | divideByZero
  deriving DecidableEq, Repr

/-- The events that end a run (60_exceptions.md R200): three ordinary ones and the faults. -/
inductive Condition where
  /-- HLT was executed (R202) -/
  | halt
  /-- the input device was read with an empty queue (R203) -/
  | inputExhausted
  /-- the driver's tick budget is used up (R204) -/
  | tickLimit
  /-- a fault (R205) -/
  | fault (k : FaultKind)
  deriving DecidableEq, Repr

/-- STATUS (10_state.md R33): why the machine is not, or no longer, running. -/
inductive Status where
  | running
  | halted
  | inputExhausted
  | tickLimit
  | faulted (k : FaultKind)
  deriving DecidableEq, Repr

/-- Why a step of the MODEL stops with a fault. The machine's own faults are not here: they are next states. [1] -/
inductive Fault where
  /-- Raised by `step` alone, on a state whose STATUS is not Running: such a machine takes no step (10_state.md R33).
  Safe: the model stops where the hardware has stopped. -/
  | notRunning (status : Status)
  deriving DecidableEq, Repr

/-- Why an instruction has no meaning in the model. -/
inductive Refusal where
  /-- Raised by an arm of `exec` whose instruction is not modelled yet; no arm is. Safe: nothing can be proved of it. -/
  | notModelled (mnemonic : String)
  deriving DecidableEq, Repr

/-- The architectural state, exactly the elements of 10_state.md R20, and the parameters of the machine. -/
structure State where
  /-- The parameters of 00_scope.md R6, written by no step. [2] -/
  cfg : Config
  /-- `PC`, program counter (R21). -/
  pc : Word
  /-- `IR`, instruction register (R29). -/
  ir : Word
  /-- `RS`, the return stack's cells (R25). -/
  rs : Cells
  /-- `RSP`, return-stack pointer, -1 when empty (R25). -/
  rsp : Int
  /-- `DS`, the operand stack's cells (R23). -/
  ds : Cells
  /-- `SP`, operand-stack pointer, -1 when empty (R23). -/
  sp : Int
  /-- `DAR`, data address register (R30). -/
  dar : Word
  /-- `MEM`, code and data (R34). -/
  mem : Cells
  /-- `IN`, the input device's queue, its head first (R34). -/
  input : List Word
  /-- `OUT`, the output device's sequence, oldest first (R34). -/
  output : List Word
  /-- `TICK`, the tick counter (R31). -/
  tick : Nat
  /-- `ICOUNT`, the count of completed instructions (R32). -/
  icount : Nat
  /-- `STATUS` (R33). -/
  status : Status
  deriving DecidableEq, Repr

/-- The machine right after reset (10_state.md R36, 70_reset_and_hazards.md R231) when the host gives the smallest image,
the one Word `[0]` (entry address 0 and no memory cell), no input codes and no tick limit. [5] -/
def State.reset : State where
  cfg := defaultConfig 0
  pc := 0#32
  ir := 0#32
  rs := []
  rsp := -1
  ds := []
  sp := -1
  dar := 0#32
  mem := []
  input := []
  output := []
  tick := 0
  icount := 0
  status := .running

end Sys2Proof.Machine
end

