-- ==== Sys2Proof/Machine/Ops.lean ====
section
/-! DEFINITION. The named operations over the state: register updates, ticks, raising a condition, the three memory access
primitives and the two stacks' cells. -/

namespace Sys2Proof.Machine

/-- `PC <- v` (R21). -/
def State.setPc (s : State) (v : Word) : State := { s with pc := v }

/-- `IR <- v` (R29). -/
def State.setIr (s : State) (v : Word) : State := { s with ir := v }

/-- Replace the return stack's cells. -/
def State.setRs (s : State) (v : Cells) : State := { s with rs := v }

/-- `RSP <- v` (R25). -/
def State.setRsp (s : State) (v : Int) : State := { s with rsp := v }

/-- Replace the operand stack's cells. -/
def State.setDs (s : State) (v : Cells) : State := { s with ds := v }

/-- `SP <- v`, latch the stack pointer (R24). -/
def State.setSp (s : State) (v : Int) : State := { s with sp := v }

/-- `DAR <- v` (R30). -/
def State.setDar (s : State) (v : Word) : State := { s with dar := v }

/-- Replace the memory array. -/
def State.setMem (s : State) (v : Cells) : State := { s with mem := v }

/-- Replace the input queue. -/
def State.setInput (s : State) (v : List Word) : State := { s with input := v }

/-- Replace the output sequence. -/
def State.setOutput (s : State) (v : List Word) : State := { s with output := v }

/-- `STATUS <- v` (R33). -/
def State.setStatus (s : State) (v : Status) : State := { s with status := v }

/-- `tick()`, `n` times (70_reset_and_hazards.md R240). -/
def State.addTicks (s : State) (n : Nat) : State := { s with tick := s.tick + n }

/-- `ICOUNT <- ICOUNT + 1` (10_state.md R32). -/
def State.countInstr (s : State) : State := { s with icount := s.icount + 1 }

/-- The value STATUS takes for a condition (60_exceptions.md R201). -/
def Condition.status : Condition → Status
  | .halt => .halted
  | .inputExhausted => .inputExhausted
  | .tickLimit => .tickLimit
  | .fault k => .faulted k

/-- `raise C` (60_exceptions.md R201): STATUS takes the condition's value, nothing further is done, and what the
micro-sequence did before stays. There is no handler and no saved state (R218). [1] -/
def State.raise (s : State) (c : Condition) : State := s.setStatus c.status

/-- `raise` of a fault (60_exceptions.md R205). -/
def State.fault (s : State) (k : FaultKind) : State := s.raise (.fault k)

/-- The outcome of an instruction or a step that leaves a state. -/
abbrev Result := Host.Outcome State Fault Refusal

/-- `IN_ADDR` (20_memory.md R56). -/
def inAddr : Word := 0#32

/-- `OUT_ADDR` (20_memory.md R56). -/
def outAddr : Word := 1#32

/-- The address names a cell: `0 <= a < MEM_SIZE` (20_memory.md R53 to R55). -/
def State.inMem (s : State) (a : Word) : Bool :=
  decide (0 ≤ a.toInt) && decide (a.toInt < (s.cfg.memSize : Int))

/-- `MemFetch(a)` (R53): the instruction-stream read, never a device; `none` where it raises FetchOutOfRange(a). -/
def State.memFetch (s : State) (a : Word) : Option Word :=
  if s.inMem a then some (s.mem.read a.toNat) else none

/-- The input-device read (R57): pop the head code, or InputExhausted. -/
def State.inputRead (s : State) : Except Condition (Word × State) :=
  match s.input with
  | [] => .error .inputExhausted
  | c :: rest => .ok (c, s.setInput rest)

/-- `MemRead(a, 1)` (R54): the data read, its checks in the spec's order. -/
def State.memRead (s : State) (a : Word) : Except Condition (Word × State) :=
  if a = inAddr then s.inputRead
  else if a = outAddr then .error (.fault (.accessDirection .read a))
  else if s.inMem a then .ok (s.mem.read a.toNat, s)
  else .error (.fault (.dataAddressOutOfRange .read a))

/-- `MemWrite(a, 1, v)` (R55, R58): the data write, its checks in the spec's order. -/
def State.memWrite (s : State) (a v : Word) : Except Condition State :=
  if a = outAddr then .ok (s.setOutput (s.output ++ [v]))
  else if a = inAddr then .error (.fault (.accessDirection .write a))
  else if s.inMem a then .ok (s.setMem (s.mem.write a.toNat v))
  else .error (.fault (.dataAddressOutOfRange .write a))

/-- `DS[i]` (10_state.md R23). An instruction asks only for a live index; a negative index, which no run reaches, reads
cell 0. [13] -/
def State.dsRead (s : State) (i : Int) : Word := s.ds.read i.toNat

/-- `DS[i] <- v` (10_state.md R23, R24). [13] -/
def State.dsWrite (s : State) (i : Int) (v : Word) : State := s.setDs (s.ds.write i.toNat v)

/-- `RS[i]` (10_state.md R25). [13] -/
def State.rsRead (s : State) (i : Int) : Word := s.rs.read i.toNat

/-- `RS[i] <- v` (10_state.md R25). [13] -/
def State.rsWrite (s : State) (i : Int) (v : Word) : State := s.setRs (s.rs.write i.toNat v)

/-- The operand stack has no room: `SP + 1 > DSTACK_CAP - 1` (42_stack.md R131, R132). -/
def State.dsFull (s : State) : Bool := decide (s.sp + 1 > (s.cfg.dstackCap : Int) - 1)

/-- The return stack has no room: `RSP + 1 > RSTACK_CAP - 1` (40_control_flow.md R103, 42_stack.md R134). -/
def State.rsFull (s : State) : Bool := decide (s.rsp + 1 > (s.cfg.rstackCap : Int) - 1)

end Sys2Proof.Machine
end

