-- ==== Sys2Proof/Machine/Operands.lean ====
section
/-! DEFINITION. The operand forms: the operand word, the two stack operands, the program counter's advance, and the
result wrap (00_scope.md R8, 10_state.md R22, R24, 30_encoding.md R82). -/

namespace Sys2Proof.Machine

/-- `PC + 1` (10_state.md R22). `PC` never wraps: past MAX_SIGN the value is free. [10] -/
def nextPc (pc : Word) : Word :=
  if pc = 0x7FFFFFFF#32 then Config.pcPastMax else pc + 1#32

/-- `PC <- PC + 1`: fetch, and the step over an operand word. -/
def State.advancePc (s : State) : State := s.setPc (nextPc s.pc)

/-- `operand = MemFetch(PC)` in the execute phase (30_encoding.md R82): go on with the operand word the instruction
carries, or raise FetchOutOfRange(PC) where there is no such cell (60_exceptions.md R207). [11] -/
def State.withOperand (s : State) (o : Option Word) (k : Word → State) : State :=
  match o with
  | none => s.fault (.fetchOutOfRange s.pc)
  | some w => k w

/-- `TOS = DS[SP]`, defined only when `SP >= 0` (10_state.md R24). -/
def State.tos (s : State) : Option Word :=
  if 0 ≤ s.sp then some (s.dsRead s.sp) else none

/-- `SOS = DS[SP-1]`, defined only when `SP >= 1` (10_state.md R24). -/
def State.sos (s : State) : Option Word :=
  if 1 ≤ s.sp then some (s.dsRead (s.sp - 1)) else none

/-- `wrap(r)` (00_scope.md R8), as the document writes it. -/
def wrap (r : Int) : Int :=
  let r1 := if r < minSign then r + wordRange else r
  if maxSign < r1 then r1 - wordRange else r1

/-- The Word of an integer; of an integer in range it is the Word with that value (00_scope.md R5, R7). -/
def toWord (r : Int) : Word := BitVec.ofInt 32 r

end Sys2Proof.Machine
end

