-- ==== Sys2Proof/Machine/Cycle.lean ====
section
/-! DEFINITION. What one step does around `exec`: the run loop's tests, fetch and decode before it, the trailing tick and
the instruction count after it (40_control_flow.md R105, 70_reset_and_hazards.md R235). -/

namespace Sys2Proof.Machine

/-- What comes before the execute phase: the step is over already, or an instruction runs from a state. -/
inductive Begun where
  /-- the step ends here with this outcome -/
  | over (r : Result)
  /-- `i` executes from `s`: `IR` loaded, `PC` on the next word, the fetch tick counted -/
  | run (i : Instr) (s : State)
  deriving Repr

/-- The driver's test `TICK >= TICK_LIMIT`, made only before a fetch (R235, D19). -/
def State.budgetSpent (s : State) : Bool :=
  match s.cfg.tickLimit with
  | none => false
  | some n => decide (n ≤ s.tick)

/-- The state after the fetch of opcode word `w`: `IR <- w`, `PC <- PC + 1`, the fetch tick (R105). -/
def State.fetched (s : State) (w : Word) : State := ((s.setIr w).advancePc).addTicks 1

/-- Fetch and decode (R105): FetchOutOfRange(PC) with nothing done, or IllegalOpcode(IR) after the fetch, or the
instruction with the word of the next cell, if there is one, as its operand. [11] -/
def fetchDecode (s : State) : Begun :=
  match s.memFetch s.pc with
  | none => .over (.next (s.fault (.fetchOutOfRange s.pc)))
  | some w =>
    match decode s.cfg.opc w ((s.fetched w).memFetch (s.fetched w).pc) with
    | .error _ => .over (.next ((s.fetched w).fault (.illegalOpcode w)))
    | .ok i => .run i (s.fetched w)

/-- One turn of the run loop up to the execute phase: no step of a machine that is not Running (10_state.md R33), the
TickLimit test, then fetch and decode. [1] [6] -/
def beginStep (s : State) : Begun :=
  if s.status = .running then
    if s.budgetSpent then .over (.next (s.raise .tickLimit)) else fetchDecode s
  else .over (.fault (.notRunning s.status))

/-- After the execute phase (R105): the trailing tick and `ICOUNT + 1`, unless a condition was raised (R201). -/
def endStep : Result → Result
  | .next s => if s.status = .running then .next (s.addTicks 1).countInstr else .next s
  | r => r

end Sys2Proof.Machine
end

