-- ==== Sys2Proof/Machine/Alu.lean ====
section
/-! DEFINITION. The arithmetic instructions ADD, SUB, MOD, EQ, OR (43_alu.md). -/

namespace Sys2Proof.Machine

/-- The five ALU sub-operations, each selected by the opcode of the same name (30_encoding.md R86). -/
inductive AluOp where
  | add
  | sub
  | mod
  | eq
  | or
  deriving DecidableEq, Repr

/-- A remainder function of integers as a `MOD_FN` that faults on a zero divisor (R154). -/
def modNonZero (f : Int → Int → Int) (left right : Word) : Option Int :=
  if right = 0#32 then none else some (f left.toInt right.toInt)

/-- `MOD_FN(left, right)` (R6, R154), `none` where it faults: floored (the default, D11) or truncated remainder, or the
implementation's own function. [12] -/
def modValue : ModFn → Word → Word → Option Int
  | .floored, left, right => modNonZero Int.fmod left right
  | .truncated, left, right => modNonZero Int.tmod left right
  | .own, left, right => (Config.modOwn left right).map BitVec.toInt

/-- The implementation's own `OR_FN` under the constraint of R6, zero exactly when both operands are: where `Config.orOwn`
meets the constraint it is that function, so every function R6 allows is covered; elsewhere it is 0 or 1. [12] -/
def orConstrained (left right : Word) : Word :=
  if left = 0#32 ∧ right = 0#32 then 0#32
  else if Config.orOwn left right = 0#32 then 1#32
  else Config.orOwn left right

/-- `OR_FN` (R6, R156): the three readings of D13, or the implementation's own function. [12] -/
def orValue : OrFn → Word → Word → Word
  | .bitwise, left, right => left ||| right
  | .logical, left, right => if left = 0#32 ∧ right = 0#32 then 0#32 else 1#32
  | .firstNonZero, left, right => if left = 0#32 then right else left
  | .own, left, right => orConstrained left right

/-- `alu(op, left, right)`, the raw result before `wrap` (R152 to R156); MOD raises DivideByZero where `MOD_FN` faults,
which by default is on a zero divisor (R216). [12] -/
def alu (cfg : Config) (op : AluOp) (left right : Word) : Except Condition Int :=
  match op with
  | .add => .ok (left.toInt + right.toInt)
  | .sub => .ok (left.toInt - right.toInt)
  | .mod =>
    match modValue cfg.modFn left right with
    | none => .error (.fault .divideByZero)
    | some r => .ok r
  | .eq => .ok (if left = right then cfg.eqTrue.toInt else 0)
  | .or => .ok (orValue cfg.orFn left right).toInt

/-- The common micro-sequence (R151): left is SOS, right is TOS (D10); the ALU, the access tick, SOS replaced by the
wrapped result, TOS dropped. -/
def execAlu (op : AluOp) (s : State) : Result :=
  .next <|
    match s.sos with
    | none => s.fault .dStackUnderflow
    | some left =>
      match alu s.cfg op left (s.dsRead s.sp) with
      | .error c => s.raise c
      | .ok r => ((s.addTicks 1).dsWrite (s.sp - 1) (toWord (wrap r))).setSp (s.sp - 1)

/-- ADD (R152). -/
def execAdd (s : State) : Result := execAlu .add s

/-- SUB (R153). -/
def execSub (s : State) : Result := execAlu .sub s

/-- MOD (R154). -/
def execMod (s : State) : Result := execAlu .mod s

/-- EQ (R155). -/
def execEq (s : State) : Result := execAlu .eq s

/-- OR (R156). -/
def execOr (s : State) : Result := execAlu .or s

end Sys2Proof.Machine
end

