-- ==== Sys2Proof/Machine/Flags.lean ====
section
/-! DEFINITION. The one condition flag, the zero flag (10_state.md R27). -/

namespace Sys2Proof.Machine

/-- `Z = (DS[SP] = 0)`, combinational, defined when `SP >= 0`; no other flag exists (10_state.md R27, D6). -/
def State.zeroFlag (s : State) : Option Bool := s.tos.map (fun v => decide (v = 0#32))

end Sys2Proof.Machine
end

