-- ==== Sys2Proof/Machine/Control.lean ====
section
/-! DEFINITION. The control-flow instructions HLT, JMP, JZ, CALL, RET (40_control_flow.md). Each meaning is the execute
phase only: it starts with `PC` on the word after the opcode, and the fetch and trailing ticks are in Machine/Cycle.lean. -/

namespace Sys2Proof.Machine

/-- HLT (R100): raise Halt. -/
def execHlt (s : State) : Result := .next (s.raise .halt)

/-- JMP (R101). -/
def execJmp (target : Option Word) (s : State) : Result :=
  .next (s.withOperand target fun t => (s.setPc t).addTicks 1)

/-- JZ (R102): the flag is sampled before the pop, the operand is read only when the branch is taken (D21). -/
def execJz (target : Option Word) (s : State) : Result :=
  .next <|
    match s.zeroFlag with
    | none => s.fault .dStackUnderflow
    | some true => s.withOperand target fun t => ((s.setPc t).setSp (s.sp - 1)).addTicks 1
    | some false => (s.advancePc.setSp (s.sp - 1)).addTicks 1

/-- CALL (R103): pointer increment, tick, value latch of `PC + 1`, then the operand read and the transfer. -/
def execCall (target : Option Word) (s : State) : Result :=
  .next <|
    if s.rsFull then s.fault .rStackOverflow
    else
      let s1 := (s.setRsp (s.rsp + 1)).addTicks 1
      let s2 := s1.rsWrite s1.rsp (nextPc s1.pc)
      s2.withOperand target fun t => (s2.setPc t).addTicks 1

/-- RET (R104). -/
def execRet (s : State) : Result :=
  .next <|
    if s.rsp < 0 then s.fault .rStackUnderflow
    else ((s.setPc (s.rsRead s.rsp)).setRsp (s.rsp - 1)).addTicks 1

end Sys2Proof.Machine
end

