-- ==== Sys2Proof/Machine/MemAccess.lean ====
section
/-! DEFINITION. The load and store instructions GET_VAL and STORE_VAL (41_memory_access.md). -/

namespace Sys2Proof.Machine

/-- GET_VAL (R120): `DAR` is latched from TOS, the access tick is counted, then the data read; its value replaces the
address, `SP` unchanged (D8). -/
def execGetVal (s : State) : Result :=
  .next <|
    match s.tos with
    | none => s.fault .dStackUnderflow
    | some a =>
      let s1 := (s.setDar a).addTicks 1
      match s1.memRead s1.dar with
      | .error c => s1.raise c
      | .ok (v, s2) => s2.dsWrite s2.sp v

/-- STORE_VAL (R121): `DAR` is latched from SOS, the access tick is counted, then the data write of TOS; both are
popped (D9). -/
def execStoreVal (s : State) : Result :=
  .next <|
    match s.sos with
    | none => s.fault .dStackUnderflow
    | some a =>
      let s1 := (s.setDar a).addTicks 1
      match s1.memWrite s1.dar (s1.dsRead s1.sp) with
      | .error c => s1.raise c
      | .ok s2 => s2.setSp (s2.sp - 2)

end Sys2Proof.Machine
end

