-- ==== Sys2Proof/Machine/Stack.lean ====
section
/-! DEFINITION. The stack instructions PEEK, PUSH, DROP, PUSHR, DROPR (42_stack.md). -/

namespace Sys2Proof.Machine

/-- PEEK (R131): pointer latch, tick, operand read, index check, value latch, step over the operand. -/
def execPeek (k : Option Word) (s : State) : Result :=
  .next <|
    if s.dsFull then s.fault .dStackOverflow
    else
      let s1 := (s.setSp (s.sp + 1)).addTicks 1
      s1.withOperand k fun k =>
        if k.toInt < 0 ∨ s.rsp < k.toInt then s1.fault (.rStackIndex k)
        else (s1.dsWrite s1.sp (s.rsRead (s.rsp - k.toInt))).advancePc

/-- PUSH (R132): pointer latch, tick, value latch, step over the operand. -/
def execPush (imm : Option Word) (s : State) : Result :=
  .next <|
    if s.dsFull then s.fault .dStackOverflow
    else
      let s1 := (s.setSp (s.sp + 1)).addTicks 1
      s1.withOperand imm fun v => (s1.dsWrite s1.sp v).advancePc

/-- DROP (R133): pop without reading, `DROP_TICKS` ticks (D16). -/
def execDrop (s : State) : Result :=
  .next <|
    if s.sp < 0 then s.fault .dStackUnderflow
    else (s.setSp (s.sp - 1)).addTicks s.cfg.dropTicks

/-- PUSHR (R134): as PUSH, on the return stack. -/
def execPushr (imm : Option Word) (s : State) : Result :=
  .next <|
    if s.rsFull then s.fault .rStackOverflow
    else
      let s1 := (s.setRsp (s.rsp + 1)).addTicks 1
      s1.withOperand imm fun v => (s1.rsWrite s1.rsp v).advancePc

/-- DROPR (R135): as DROP, on the return stack. -/
def execDropr (s : State) : Result :=
  .next <|
    if s.rsp < 0 then s.fault .rStackUnderflow
    else (s.setRsp (s.rsp - 1)).addTicks s.cfg.dropTicks

end Sys2Proof.Machine
end

