-- ==== Sys2Proof/Machine/Dispatch.lean ====
section
/-! DEFINITION. The execute phase of every instruction (40_control_flow.md R105, `execute_m`). -/

namespace Sys2Proof.Machine

def exec (i : Instr) (s : State) : Host.Outcome State Fault Refusal :=
  match i with
  | .hlt => Sys2Proof.Machine.execHlt s
  | .jmp target => Sys2Proof.Machine.execJmp target s
  | .jz target => Sys2Proof.Machine.execJz target s
  | .call target => Sys2Proof.Machine.execCall target s
  | .ret => Sys2Proof.Machine.execRet s
  | .getVal => Sys2Proof.Machine.execGetVal s
  | .storeVal => Sys2Proof.Machine.execStoreVal s
  | .peek k => Sys2Proof.Machine.execPeek k s
  | .push imm => Sys2Proof.Machine.execPush imm s
  | .drop => Sys2Proof.Machine.execDrop s
  | .pushr imm => Sys2Proof.Machine.execPushr imm s
  | .dropr => Sys2Proof.Machine.execDropr s
  | .add => Sys2Proof.Machine.execAdd s
  | .sub => Sys2Proof.Machine.execSub s
  | .mod => Sys2Proof.Machine.execMod s
  | .eq => Sys2Proof.Machine.execEq s
  | .or => Sys2Proof.Machine.execOr s

end Sys2Proof.Machine
end

