-- ==== Sys2Proof/Machine/Step.lean ====
section
/-! DEFINITION. One step of the machine: one turn of the driver's loop, which executes one whole instruction
(40_control_flow.md R105, 70_reset_and_hazards.md R235). -/

namespace Sys2Proof.Machine

/-- One step. -/
def step (s : State) : Host.Outcome State Fault Refusal :=
  match beginStep s with
  | .over r => r
  | .run i t => endStep (exec i t)

/-- `s` with the instruction whose low `nbits` bits are `w` stored at `PC`: its two Words in the cells `PC` and `PC + 1`,
and the memory made large enough to hold them. It stands for the host's load of a program (20_memory.md R60): the
default MEM_SIZE is the image's own length, and State.reset's image has no cell. [5] -/
def State.withFetchWord (s : State) (nbits w : Nat) : State :=
  let ws := tableWords nbits w
  { s with
    mem := (s.mem.write s.pc.toNat ws.1).write (s.pc.toNat + 1) ws.2
    cfg := { s.cfg with memSize := max s.cfg.memSize (s.pc.toNat + 2) } }

end Sys2Proof.Machine
end

