-- ==== Sys2Proof/Machine/Loader.lean ====
section
/-! DEFINITION. Reset from the host's inputs: the program image, the input codes and the parameters
(70_reset_and_hazards.md R230, R231; 20_memory.md R60, R63). -/

namespace Sys2Proof.Machine

/-- The reset procedure on a decoded image (R231): the entry word is the program counter's start value and is not in
memory (R60, D2), the other Words fill memory from cell 0, cells above them are 0 (R36, D3), and the rest is as at
`State.reset`. Refused: an image with no entry word (30_encoding.md R94) or longer than MEM_SIZE (R231). -/
def State.load (cfg : Config) (image : List Word) (codes : List Word) : Option State :=
  match image with
  | [] => none
  | entry :: cells =>
    if cells.length ≤ cfg.memSize then
      some { State.reset with cfg := cfg, pc := entry, mem := Cells.ofList cells, input := codes }
    else none

/-- The reset procedure on an image file (R231): refused also where the bytes are not whole Words (30_encoding.md R94). -/
def State.loadBytes (cfg : Config) (bytes : List Byte) (codes : List Word) : Option State :=
  match decodeImage bytes with
  | none => none
  | some image => State.load cfg image codes

/-- Reset with the default parameters of 00_scope.md R6: MEM_SIZE is the image length minus 1 (D3). [4] [6] [12] -/
def State.loadDefault (image : List Word) (codes : List Word) : Option State :=
  State.load (defaultConfig (image.length - 1)) image codes

/-- `IN_CODES`, the document's driver (R63, D30): one code per byte of the host text, then one 0. [15] -/
def inputCodes (text : List Byte) : List Word :=
  text.map (fun b => BitVec.ofNat 32 b.toNat) ++ [0#32]

end Sys2Proof.Machine
end

