-- ==== Sys2Proof/Machine/Driver.lean ====
section
/-! DEFINITION. The driver's run loop and what it reports (70_reset_and_hazards.md R235, R236; 60_exceptions.md R227;
20_memory.md R64). -/

namespace Sys2Proof.Machine

/-- At most `n` turns of the run loop (R235), ending at the first state whose STATUS is not Running (R236). -/
def State.runFor : Nat → State → State
  | 0, s => s
  | n + 1, s =>
    match step s with
    | .next t => State.runFor n t
    | .fault _ => s
    | .refused _ => s

/-- The rendering of one output code (R64): the character of a code in 1..255, otherwise the signed decimal numeral. -/
def renderCode (c : Word) : List Char :=
  if 0 < c.toInt ∧ c.toInt < 256 then [Char.ofNat c.toNat]
  else if c.toInt < 0 then '-' :: Nat.toDigits 10 c.toInt.natAbs
  else Nat.toDigits 10 c.toInt.natAbs

/-- The rendering of an output sequence, with no separator (R64). -/
def renderOutput (codes : List Word) : List Char := codes.flatMap renderCode

/-- What the driver reports after a run (R227). -/
structure Report where
  /-- the rendered output text -/
  text : List Char
  /-- the count of completed instruction-decode cycles -/
  completed : Nat
  /-- the final tick count -/
  ticks : Nat
  deriving DecidableEq, Repr

/-- The report (R227), made after Halt, InputExhausted or TickLimit; after a fault the document promises nothing, and a
run that has not ended has none. -/
def State.report (s : State) : Option Report :=
  match s.status with
  | .halted | .inputExhausted | .tickLimit => some ⟨renderOutput s.output, s.icount, s.tick⟩
  | .running | .faulted _ => none

/-- R236: a run is successful exactly when it ends Halted. -/
def State.successful (s : State) : Bool := decide (s.status = .halted)

end Sys2Proof.Machine
end

