-- ==== Sys2Proof/Machine/Encoder.lean ====
section
/-! DEFINITION. The instruction encoder, the translator's Stage 2 (49_assembler.md R170 to R178). -/

namespace Sys2Proof.Machine

/-- One entry of the instruction list (R170); each becomes one Word of the code region. -/
inductive Entry where
  /-- an opcode value -/
  | op (m : Mnemonic)
  /-- an integer literal -/
  | lit (n : Int)
  /-- a numeric string or, where it is none, a name -/
  | text (s : List Char)
  deriving DecidableEq, Repr

/-- The kind tag of a symbol-table entry (R171, D25). -/
inductive SymbolKind where
  | code
  | data
  deriving DecidableEq, Repr

/-- The encoder's input, Stage 1's four-tuple (R170). -/
structure Source where
  /-- the symbol table: name, kind, position -/
  symbols : List (List Char × SymbolKind × Int)
  /-- the instruction list -/
  instrs : List Entry
  /-- the data list -/
  data : List Int
  /-- the start offset -/
  start : Int
  deriving DecidableEq, Repr

/-- The two error kinds of the encoder (R175). -/
inductive EncodeError where
  /-- a literal, address, data value or start offset outside the signed 32-bit range -/
  | rangeError (n : Int)
  /-- a name that is not in the symbol table -/
  | undefinedSymbol (s : List Char)
  deriving DecidableEq, Repr

/-- Decimal digits, at least one, as a number (D34). -/
def parseDigits (ds : List Char) : Option Int :=
  if ds.isEmpty || !ds.all Char.isDigit then none
  else some (ds.foldl (fun n d => 10 * n + ((d.toNat : Int) - 48)) 0)

/-- A numeric string: decimal digits with an optional leading `-` (R170, D34); `none` where the text is a name. [15] -/
def parseNumeral : List Char → Option Int
  | '-' :: ds => (parseDigits ds).map (fun n => -n)
  | ds => parseDigits ds

/-- The Word of an integer in range, RangeError of any other (R173). -/
def rangeChecked (n : Int) : Except EncodeError Word :=
  if n < minSign ∨ maxSign < n then .error (.rangeError n) else .ok (BitVec.ofInt 32 n)

/-- The symbol-table entry of a name (R171; names are unique in a well-formed table, the first is taken). [15] -/
def lookupSymbol (symbols : List (List Char × SymbolKind × Int)) (s : List Char) : Option (SymbolKind × Int) :=
  match symbols with
  | [] => none
  | (n, e) :: rest => if n = s then some e else lookupSymbol rest s

/-- Resolution of one entry (R173), `cl` the code length `CL` (R172). -/
def resolve (opc : OpcMap) (symbols : List (List Char × SymbolKind × Int)) (cl : Nat) : Entry → Except EncodeError Word
  | .op m => .ok (opc.code m)
  | .lit n => rangeChecked n
  | .text s =>
    match parseNumeral s with
    | some n => rangeChecked n
    | none =>
      match lookupSymbol symbols s with
      | none => .error (.undefinedSymbol s)
      | some (.code, p) => rangeChecked p
      | some (.data, p) => rangeChecked (cl + p)

/-- Resolve a list of entries in order; the first failure is the one reported (R175, D26). -/
def mapExcept {α β ε : Type} (f : α → Except ε β) : List α → Except ε (List β)
  | [] => .ok []
  | a :: as =>
    match f a with
    | .error e => .error e
    | .ok b =>
      match mapExcept f as with
      | .error e => .error e
      | .ok bs => .ok (b :: bs)

/-- The encoder (R174): the image `[start] ++ code ++ data`, or the first error in the order instruction list, data list,
start offset (R175, D26). -/
def assemble (opc : OpcMap) (src : Source) : Except EncodeError (List Word) :=
  match mapExcept (resolve opc src.symbols src.instrs.length) src.instrs with
  | .error e => .error e
  | .ok code =>
    match mapExcept rangeChecked src.data with
    | .error e => .error e
    | .ok data =>
      match rangeChecked src.start with
      | .error e => .error e
      | .ok start => .ok (start :: code ++ data)

/-- The textual name of an opcode (R178). -/
def mnemonicName : Mnemonic → List Char
  | .HLT => ['H', 'L', 'T']
  | .JMP => ['J', 'M', 'P']
  | .JZ => ['J', 'Z']
  | .CALL => ['C', 'A', 'L', 'L']
  | .RET => ['R', 'E', 'T']
  | .GET_VAL => ['G', 'E', 'T', '_', 'V', 'A', 'L']
  | .STORE_VAL => ['S', 'T', 'O', 'R', 'E', '_', 'V', 'A', 'L']
  | .PEEK => ['P', 'E', 'E', 'K']
  | .PUSH => ['P', 'U', 'S', 'H']
  | .DROP => ['D', 'R', 'O', 'P']
  | .PUSHR => ['P', 'U', 'S', 'H', 'R']
  | .DROPR => ['D', 'R', 'O', 'P', 'R']
  | .ADD => ['A', 'D', 'D']
  | .SUB => ['S', 'U', 'B']
  | .MOD => ['M', 'O', 'D']
  | .EQ => ['E', 'Q']
  | .OR => ['O', 'R']

/-- The label of a literal, the entry word or a data Word (R178). -/
def numberLabel : List Char := ['N', 'u', 'm', 'b', 'e', 'r', '-', 'v', 'a', 'l', 'u', 'e']

/-- The text before the name in the label of a name (R178). -/
def addressLabel : List Char := ['A', 'd', 'd', 'r', 'e', 's', 's', ':', ' ']

/-- The text between the columns of a listing line (R178). -/
def columnGap : List Char := [' ', '-', ' ']

/-- The parameter `LISTING_NEG` (00_scope.md R6, D27): how a negative Word is printed. [16] -/
inductive ListingNeg where
  /-- a minus sign and the magnitude -/
  | signMagnitude
  /-- the 32-bit pattern -/
  | pattern
  deriving DecidableEq, Repr

/-- Upper-case hexadecimal, padded with zeros to at least `width` digits (R178). -/
def hexPadded (width n : Nat) : List Char :=
  ((Nat.toDigits 16 n).map Char.toUpper).leftpad width '0'

/-- The value column of a listing line (R178). -/
def listingValue (neg : ListingNeg) (w : Word) : List Char :=
  match neg with
  | .pattern => hexPadded 8 w.toNat
  | .signMagnitude => if w.toInt < 0 then '-' :: hexPadded 8 w.toInt.natAbs else hexPadded 8 w.toNat

/-- The label of an instruction-list entry (R178); a numeric string is labelled as the literal it denotes. [15] -/
def entryLabel : Entry → List Char
  | .op m => mnemonicName m
  | .lit _ => numberLabel
  | .text s => if (parseNumeral s).isSome then numberLabel else addressLabel ++ s

/-- One line of the listing: index, value, label (R178). -/
def listingLine (neg : ListingNeg) (index : Nat) (w : Word) (label : List Char) : List Char :=
  hexPadded 2 index ++ columnGap ++ listingValue neg w ++ columnGap ++ label

/-- The lines of consecutive Words from an index, each with its label; a Word without one is labelled `Number-value`. -/
def listingFrom (neg : ListingNeg) (index : Nat) : List Word → List (List Char) → List (List Char)
  | [], _ => []
  | w :: ws, [] => listingLine neg index w numberLabel :: listingFrom neg (index + 1) ws []
  | w :: ws, l :: ls => listingLine neg index w l :: listingFrom neg (index + 1) ws ls

/-- The mnemonic listing of a source that assembles (R178, D27): line 0 is the entry word, then one line per entry of the
instruction list, then one per data Word; the entry word and the data are labelled `Number-value`. -/
def listing (neg : ListingNeg) (opc : OpcMap) (src : Source) : Except EncodeError (List (List Char)) :=
  match assemble opc src with
  | .error e => .error e
  | .ok image => .ok (listingFrom neg 0 image (numberLabel :: src.instrs.map entryLabel))

end Sys2Proof.Machine
end

