-- ==== Sys2Proof/Safety.lean ====
section
/-! DEFINITION. What counts as a legal state and a safe run, in the terms the statements use. -/

namespace Sys2Proof.Machine

/-- Both stack pointers are in range (10_state.md R26). -/
abbrev State.PointersInRange (s : State) : Prop :=
  -1 ≤ s.sp ∧ s.sp ≤ (s.cfg.dstackCap : Int) - 1 ∧ -1 ≤ s.rsp ∧ s.rsp ≤ (s.cfg.rstackCap : Int) - 1

/-- The three arrays are in canonical form and list no cell outside their size (10_state.md R20). -/
abbrev State.ArraysLegal (s : State) : Prop :=
  (Cells.wf s.mem = true ∧ Cells.within s.cfg.memSize s.mem = true) ∧
  (Cells.wf s.ds = true ∧ Cells.within s.cfg.dstackCap s.ds = true) ∧
  (Cells.wf s.rs = true ∧ Cells.within s.cfg.rstackCap s.rs = true)

/-- The invariant of the machine: every state a run reaches from a reset meets it. -/
abbrev State.Legal (s : State) : Prop := s.PointersInRange ∧ s.ArraysLegal

/-- The run has ended (70_reset_and_hazards.md R236). -/
abbrev State.Ended (s : State) : Prop := s.status ≠ .running

/-- The run has ended with a fault; such a state is never final (60_exceptions.md R218). -/
def State.isFaulted (s : State) : Bool :=
  match s.status with
  | .faulted _ => true
  | .running | .halted | .inputExhausted | .tickLimit => false

/-- The outcome is a state whose STATUS is the fault `k`. Of what a fault leaves, only OUT may be relied on
(60_exceptions.md R218, D32), so this says nothing of the other fields. -/
def State.FaultsWith (s : State) (r : Result) (k : FaultKind) : Prop :=
  ∃ t, r = .next t ∧ t.status = .faulted k ∧ t.output = s.output

/-- The operand stack of `t` holds `v` at index `i` and is that of `s` at every other index. -/
def State.DsSet (s t : State) (i : Int) (v : Word) : Prop :=
  t.dsRead i = v ∧ ∀ j : Nat, j ≠ i.toNat → t.ds.read j = s.ds.read j

/-- The return stack of `t` holds `v` at index `i` and is that of `s` at every other index. -/
def State.RsSet (s t : State) (i : Int) (v : Word) : Prop :=
  t.rsRead i = v ∧ ∀ j : Nat, j ≠ i.toNat → t.rs.read j = s.rs.read j

/-- The memory of `t` holds `v` in cell `a` and is that of `s` in every other cell. -/
def State.MemSet (s t : State) (a : Nat) (v : Word) : Prop :=
  t.mem.read a = v ∧ ∀ b : Nat, b ≠ a → t.mem.read b = s.mem.read b

/-- Ticks of a completed instruction, fetch and trailing tick included (70_reset_and_hazards.md R241). HLT never
completes: it costs its fetch tick. -/
def tickCost (cfg : Config) : Instr → Nat
  | .hlt => 1
  | .call _ => 4
  | .drop | .dropr => 2 + cfg.dropTicks
  | .jmp _ | .jz _ | .ret | .getVal | .storeVal | .peek _ | .push _ | .pushr _
  | .add | .sub | .mod | .eq | .or => 3

/-! ### Numerals, as the statements about the encoder spell them -/

/-- The decimal digits, each at its value. -/
def decDigits : List Char := ['0', '1', '2', '3', '4', '5', '6', '7', '8', '9']

/-- The upper-case hexadecimal digits, each at its value. -/
def hexDigits : List Char := decDigits ++ ['A', 'B', 'C', 'D', 'E', 'F']

/-- At least one digit and nothing else. -/
def IsNumeral (digits s : List Char) : Prop := s ≠ [] ∧ ∀ c ∈ s, c ∈ digits

/-- The number a numeral stands for, most significant digit first, in the base of its digits. -/
def numeralValue (digits s : List Char) : Nat := s.foldl (fun n c => digits.length * n + digits.idxOf c) 0

/-- `s` is a numeric string that denotes `n`: a decimal numeral, optionally with a leading `-` (49_assembler.md R170,
D34). [15] -/
def Denotes (s : List Char) (n : Int) : Prop :=
  (IsNumeral decDigits s ∧ n = numeralValue decDigits s) ∨
  ∃ ds, s = '-' :: ds ∧ IsNumeral decDigits ds ∧ n = -(numeralValue decDigits ds : Int)

/-- `s` is `n` in upper-case hexadecimal, padded with zeros to at least `width` digits and no further (49_assembler.md
R178). -/
def IsPaddedHex (width n : Nat) (s : List Char) : Prop :=
  IsNumeral hexDigits s ∧ numeralValue hexDigits s = n ∧ width ≤ s.length ∧ (width < s.length → s.head? ≠ some '0')

/-- The textual name of each opcode (00_scope.md R1). -/
def opcodeNames : List (Mnemonic × List Char) :=
  [(.HLT, ['H', 'L', 'T']),
   (.JMP, ['J', 'M', 'P']),
   (.JZ, ['J', 'Z']),
   (.CALL, ['C', 'A', 'L', 'L']),
   (.RET, ['R', 'E', 'T']),
   (.GET_VAL, ['G', 'E', 'T', '_', 'V', 'A', 'L']),
   (.STORE_VAL, ['S', 'T', 'O', 'R', 'E', '_', 'V', 'A', 'L']),
   (.PEEK, ['P', 'E', 'E', 'K']),
   (.PUSH, ['P', 'U', 'S', 'H']),
   (.DROP, ['D', 'R', 'O', 'P']),
   (.PUSHR, ['P', 'U', 'S', 'H', 'R']),
   (.DROPR, ['D', 'R', 'O', 'P', 'R']),
   (.ADD, ['A', 'D', 'D']),
   (.SUB, ['S', 'U', 'B']),
   (.MOD, ['M', 'O', 'D']),
   (.EQ, ['E', 'Q']),
   (.OR, ['O', 'R'])]

end Sys2Proof.Machine
end

