-- ==== Sys2Proof/Certificates/Slice0/Obligations.lean ====
section
/-! DEFINITION. The statements about the machine, for the provers. A statement about a fault says only the fault's kind
and that OUT is kept, because 60_exceptions.md R218 (D32) lets no claim depend on anything else a fault leaves. -/

open Sys2Proof Sys2Proof.Machine

/-! ### Reset and loading -/

/-- 70_reset_and_hazards.md R231: reset refuses a byte string that is no image or is longer than MEM_SIZE, and otherwise
leaves the state the procedure lists; by default MEM_SIZE is the image length minus 1. -/
def Obligations.LoadFollowsResetProcedure : Prop :=
  ∀ (cfg : Config) (bytes : List Byte) (codes : List Word),
    (decodeImage bytes = none → State.loadBytes cfg bytes codes = none) ∧
    (decodeImage bytes = some [] → State.loadBytes cfg bytes codes = none) ∧
    ∀ (entry : Word) (cells : List Word), decodeImage bytes = some (entry :: cells) →
      (cfg.memSize < cells.length → State.loadBytes cfg bytes codes = none) ∧
      (cells.length ≤ cfg.memSize → ∃ s, State.loadBytes cfg bytes codes = some s ∧
        s.cfg = cfg ∧ s.pc = entry ∧
        (∀ (a : Nat) (w : Word), cells[a]? = some w → s.mem.read a = w) ∧
        (∀ a : Nat, cells.length ≤ a → s.mem.read a = 0#32) ∧
        s.sp = -1 ∧ s.rsp = -1 ∧ s.ir = 0#32 ∧ s.dar = 0#32 ∧ s.input = codes ∧ s.output = [] ∧
        s.tick = 0 ∧ s.icount = 0 ∧ s.status = .running) ∧
      ∃ s, State.loadDefault (entry :: cells) codes = some s ∧ s.cfg.memSize = cells.length

/-- Every loaded machine starts in a legal state (10_state.md R26, R36). -/
def Obligations.LoadedStateIsLegal : Prop :=
  ∀ (cfg : Config) (image codes : List Word) (s : State), State.load cfg image codes = some s → s.Legal

/-- `State.reset` is the reset of the image `[0]` under the model's parameters (log entries 4, 5, 6, 12), its parameters
meet the constraints of 00_scope.md R6, and it is legal. -/
def Obligations.ResetStateIsLegal : Prop :=
  State.loadDefault [0#32] [] = some State.reset ∧ State.reset.cfg.WellFormed ∧ State.reset.Legal

/-- 30_encoding.md R94: a file whose length is not a multiple of 4, or is 0, is refused; an image of one word loads, and
its first fetch raises FetchOutOfRange. -/
def Obligations.ImageFileRefusals : Prop :=
  (∀ (cfg : Config) (bytes : List Byte) (codes : List Word), bytes.length % 4 ≠ 0 ∨ bytes.length = 0 →
    State.loadBytes cfg bytes codes = none) ∧
  ∀ (entry : Word) (codes : List Word), ∃ s, State.loadDefault [entry] codes = some s ∧
    s.FaultsWith (step s) (.fetchOutOfRange entry)

/-! ### Encoding -/

/-- Words written out from 30_encoding.md R85 and R80 decode to the instructions they stand for (default OPC, log 3). -/
def Obligations.SampleWordsDecode : Prop :=
  decodeWords defaultOpc [0x00000000#32] = .ok (.hlt, []) ∧
  decodeWords defaultOpc [0x00000002#32, 0x00000010#32] = .ok (.jz (some 16#32), []) ∧
  decodeWords defaultOpc [0x00000005#32] = .ok (.getVal, []) ∧
  decodeWords defaultOpc [0x00000007#32, 0x00000001#32, 0x00000008#32] = .ok (.peek (some 1#32), [8#32]) ∧
  decodeWords defaultOpc [0x0000000A#32, 0xFFFFFFFF#32] = .ok (.pushr (some 0xFFFFFFFF#32), []) ∧
  decodeWords defaultOpc [0x0000000D#32] = .ok (.sub, []) ∧
  decodeWords defaultOpc [0x00000011#32] = .error (.illegalOpcode 17#32)

/-- Decoding the Words of a well-formed instruction gives it back, with every operand, under every injective OPC, whatever
Words follow (30_encoding.md R80 to R84). -/
def Obligations.DecodeEncodeAgree : Prop :=
  ∀ (opc : OpcMap) (i : Instr) (rest : List Word), opc.Injective → i.wf = true →
    decodeWords opc (encode opc i ++ rest) = .ok (i, rest)

/-- Words that decode to a well-formed instruction are that instruction's encoding, followed by the Words left over. -/
def Obligations.EncodeDecodeAgree : Prop :=
  ∀ (opc : OpcMap) (ws rest : List Word) (i : Instr), decodeWords opc ws = .ok (i, rest) → i.wf = true →
    encode opc i ++ rest = ws

/-- 30_encoding.md R83: decode is by exact match of the whole word against the 17 codes; the machine raises IllegalOpcode of
a fetched word that is none of them. -/
def Obligations.DecodeIsExactMatch : Prop :=
  ∀ (opc : OpcMap) (w : Word) (next : Option Word), opc.Injective →
    (∀ i, decode opc w next = .ok i ↔ ∃ m, opc.code m = w ∧ i = Instr.ofMnemonic m next) ∧
    ((∀ m, opc.code m ≠ w) ↔ decode opc w next = .error (.illegalOpcode w)) ∧
    ∀ s : State, s.cfg.opc = opc → s.status = .running → s.budgetSpent = false → s.memFetch s.pc = some w →
      (∀ m, opc.code m ≠ w) → s.FaultsWith (step s) (.illegalOpcode w)

/-- 30_encoding.md R87: under the default OPC (log 3) exactly the Words 0 to 16 are opcode words. -/
def Obligations.IllegalWordsUnderDefault : Prop :=
  ∀ (w : Word) (next : Option Word),
    (decode defaultOpc w next = .error (.illegalOpcode w) ↔ 17 ≤ w.toNat) ∧
    (w.toNat < 17 → ∃ i, decode defaultOpc w next = .ok i)

/-- 30_encoding.md R93: the image codec round trip, both halves. -/
def Obligations.ImageCodecRoundTrip : Prop :=
  (∀ ws : List Word, decodeImage (encodeImage ws) = some ws) ∧
  ∀ bs : List Byte, bs.length % 4 = 0 → ∃ ws, decodeImage bs = some ws ∧ encodeImage ws = bs

/-- 30_encoding.md R91: an image is the concatenation of its words' 4 bytes, least significant byte first, and nothing
else. -/
def Obligations.ImageBytesLittleEndian : Prop :=
  (∀ ws : List Word, (encodeImage ws).length = 4 * ws.length) ∧
  ∀ (ws : List Word) (k : Nat) (w : Word), ws[k]? = some w → ∃ b0 b1 b2 b3 : Byte,
    (encodeImage ws)[4 * k]? = some b0 ∧ (encodeImage ws)[4 * k + 1]? = some b1 ∧
    (encodeImage ws)[4 * k + 2]? = some b2 ∧ (encodeImage ws)[4 * k + 3]? = some b3 ∧
    b0.toNat = w.toNat % 256 ∧ b1.toNat = w.toNat / 256 % 256 ∧
    b2.toNat = w.toNat / 65536 % 256 ∧ b3.toNat = w.toNat / 16777216

/-! ### The cycle -/

/-- 40_control_flow.md R105: when the words at `PC` decode to `i`, a step is `exec i` from the state after the fetch (IR
loaded, PC on the next word, one tick), followed by the trailing tick and the instruction count unless a condition was
raised. -/
def Obligations.StepRunsDecodedInstruction : Prop :=
  ∀ (s t : State) (w : Word) (i : Instr), s.status = .running → s.budgetSpent = false →
    s.memFetch s.pc = some w → decode s.cfg.opc w (s.memFetch (nextPc s.pc)) = .ok i →
    exec i { s with ir := w, pc := nextPc s.pc, tick := s.tick + 1 } = .next t →
    (t.status = .running → step s = .next { t with tick := t.tick + 1, icount := t.icount + 1 }) ∧
    (t.status ≠ .running → step s = .next t)

/-- 60_exceptions.md R206, R207: a fetch outside memory raises FetchOutOfRange(PC), a word that is no opcode raises
IllegalOpcode of it. -/
def Obligations.FetchAndDecodeFaults : Prop :=
  ∀ s : State, s.status = .running → s.budgetSpent = false →
    (s.inMem s.pc = false → s.FaultsWith (step s) (.fetchOutOfRange s.pc)) ∧
    (s.inMem s.pc = true → (∀ m, s.cfg.opc.code m ≠ s.mem.read s.pc.toNat) →
      s.FaultsWith (step s) (.illegalOpcode (s.mem.read s.pc.toNat)))

/-- 10_state.md R33: a machine whose STATUS is not Running takes no step; a running one always does, whatever its state
(no instruction is refused or stuck). -/
def Obligations.StepsExactlyWhileRunning : Prop :=
  ∀ s : State, (s.status ≠ .running → step s = .fault (.notRunning s.status)) ∧
    (s.status = .running → ∃ t, step s = .next t)

/-- 60_exceptions.md R204, 70_reset_and_hazards.md R235: TickLimit is raised exactly when the budget is spent before a
fetch, and then nothing else changes. -/
def Obligations.TickLimitExactlyBeforeFetch : Prop :=
  ∀ s t : State, s.status = .running → step s = .next t →
    (t.status = .tickLimit ↔ ∃ n, s.cfg.tickLimit = some n ∧ n ≤ s.tick) ∧
    (t.status = .tickLimit → t = { s with status := .tickLimit })

/-- 10_state.md R22: the program counter advances by one and does not wrap. -/
def Obligations.NextPcAddsOne : Prop :=
  ∀ pc : Word, pc.toInt < maxSign → (nextPc pc).toInt = pc.toInt + 1

/-! ### Control flow -/

/-- 40_control_flow.md R100: HLT halts and changes nothing else; as a step it costs the fetch tick only and is not
counted; from the state it leaves no further step is taken, which the model answers as `Fault.notRunning` (log 1). -/
def Obligations.HltHalts : Prop :=
  (∀ s : State, exec .hlt s = .next { s with status := .halted }) ∧
  ∀ s : State, s.status = .running → s.budgetSpent = false → s.cfg.opc.Injective →
    s.memFetch s.pc = some (s.cfg.opc.code .HLT) →
    ∃ t, step s = .next t ∧
      t = { s with ir := s.cfg.opc.code .HLT, pc := nextPc s.pc, tick := s.tick + 1, status := .halted } ∧
      step t = .fault (.notRunning .halted)

/-- 40_control_flow.md R101: JMP takes its operand word as the new PC, unchecked: a target outside memory faults at the next
fetch. It costs 3 ticks. With no operand cell it raises FetchOutOfRange of that cell. -/
def Obligations.JmpCompletes : Prop :=
  (∀ (s : State) (target : Word), exec (.jmp (some target)) s = .next { s with pc := target, tick := s.tick + 1 }) ∧
  ∀ s : State, s.status = .running → s.budgetSpent = false → s.cfg.opc.Injective →
    s.memFetch s.pc = some (s.cfg.opc.code .JMP) →
    (s.memFetch (nextPc s.pc) = none → s.FaultsWith (step s) (.fetchOutOfRange (nextPc s.pc))) ∧
    ∀ target, s.memFetch (nextPc s.pc) = some target → ∃ t, step s = .next t ∧
      t = { s with ir := s.cfg.opc.code .JMP, pc := target, tick := s.tick + 3, icount := s.icount + 1 } ∧
      (s.inMem target = false → t.budgetSpent = false → t.FaultsWith (step t) (.fetchOutOfRange target))

/-- 40_control_flow.md R104: RET pops the new PC from the return stack, whoever pushed it. -/
def Obligations.RetCompletes : Prop :=
  ∀ s : State, 0 ≤ s.rsp → exec .ret s = .next { s with pc := s.rsRead s.rsp, rsp := s.rsp - 1, tick := s.tick + 1 }

/-- 40_control_flow.md R102: JZ pops on both paths and branches exactly on 0; not taken, it needs no operand word (D21). -/
def Obligations.JzCompletes : Prop :=
  ∀ (s : State) (o : Option Word), 0 ≤ s.sp →
    (∀ target, o = some target → s.dsRead s.sp = 0#32 →
      exec (.jz o) s = .next { s with pc := target, sp := s.sp - 1, tick := s.tick + 1 }) ∧
    (s.dsRead s.sp ≠ 0#32 →
      exec (.jz o) s = .next { s with pc := nextPc s.pc, sp := s.sp - 1, tick := s.tick + 1 })

/-- 40_control_flow.md R103: CALL pushes the address after its operand and transfers. -/
def Obligations.CallCompletes : Prop :=
  ∀ (s : State) (target : Word), s.Legal → s.rsp < (s.cfg.rstackCap : Int) - 1 →
    ∃ t, exec (.call (some target)) s = .next t ∧
      t = { s with rs := t.rs, rsp := s.rsp + 1, pc := target, tick := s.tick + 2 } ∧
      s.RsSet t (s.rsp + 1) (nextPc s.pc)

/-- A RET that finds the return stack as the CALL left it goes to the word after the CALL's operand and restores the
return stack's depth, whatever the callee did elsewhere (40_control_flow.md R103, R104). -/
def Obligations.RetReturnsAfterCall : Prop :=
  ∀ (s t u v : State) (target : Word), s.Legal → exec (.call (some target)) s = .next t → t.status = s.status →
    s.status = .running → u.rsp = t.rsp → u.rsRead u.rsp = t.rsRead t.rsp → exec .ret u = .next v →
    v.pc = nextPc s.pc ∧ v.rsp = s.rsp ∧ v.status = u.status

/-- 40_control_flow.md R108: PUSHR of an argument, CALL, PEEK 1 in the callee, RET, DROPR: the callee finds the argument,
control returns, and the return stack has the depth and the live cells it had. -/
def Obligations.CallingConvention : Prop :=
  ∀ (s : State) (arg target : Word), s.Legal → s.rsp + 2 < (s.cfg.rstackCap : Int) →
    s.sp + 1 < (s.cfg.dstackCap : Int) → ∃ s1 s2 s3 s4 s5,
      exec (.pushr (some arg)) s = .next s1 ∧ exec (.call (some target)) s1 = .next s2 ∧ s2.pc = target ∧
      exec (.peek (some 1#32)) s2 = .next s3 ∧ s3.sp = s.sp + 1 ∧ s3.dsRead s3.sp = arg ∧
      exec .ret s3 = .next s4 ∧ s4.pc = nextPc s1.pc ∧
      exec .dropr s4 = .next s5 ∧ s5.rsp = s.rsp ∧ s5.sp = s.sp + 1 ∧ s5.status = s.status ∧
      ∀ j : Int, 0 ≤ j → j ≤ s.rsp → s5.rsRead j = s.rsRead j

/-- 60_exceptions.md R210, R211: RET and DROPR on an empty return stack, CALL and PUSHR on a full one; the stack test
comes before the operand read (R215). -/
def Obligations.ReturnStackFaults : Prop :=
  ∀ (s : State) (o : Option Word),
    (s.rsp < 0 → s.FaultsWith (exec .ret s) .rStackUnderflow ∧ s.FaultsWith (exec .dropr s) .rStackUnderflow) ∧
    ((s.cfg.rstackCap : Int) - 1 ≤ s.rsp →
      s.FaultsWith (exec (.call o) s) .rStackOverflow ∧ s.FaultsWith (exec (.pushr o) s) .rStackOverflow)

/-- 60_exceptions.md R207: a two-word instruction whose operand cell does not exist raises FetchOutOfRange(PC), when it
gets as far as reading the operand. -/
def Obligations.MissingOperandFaults : Prop :=
  ∀ s : State,
    s.FaultsWith (exec (.jmp none) s) (.fetchOutOfRange s.pc) ∧
    (0 ≤ s.sp → s.dsRead s.sp = 0#32 → s.FaultsWith (exec (.jz none) s) (.fetchOutOfRange s.pc)) ∧
    (s.rsp < (s.cfg.rstackCap : Int) - 1 →
      s.FaultsWith (exec (.call none) s) (.fetchOutOfRange s.pc) ∧
      s.FaultsWith (exec (.pushr none) s) (.fetchOutOfRange s.pc)) ∧
    (s.sp < (s.cfg.dstackCap : Int) - 1 →
      s.FaultsWith (exec (.push none) s) (.fetchOutOfRange s.pc) ∧
      s.FaultsWith (exec (.peek none) s) (.fetchOutOfRange s.pc))

/-! ### Loads and stores -/

/-- 41_memory_access.md R120, 20_memory.md R54: GET_VAL of a memory cell. -/
def Obligations.GetValLoadsCell : Prop :=
  ∀ (s : State) (a : Word), s.Legal → 0 ≤ s.sp → s.dsRead s.sp = a → a ≠ 0#32 → a ≠ 1#32 → 0 ≤ a.toInt →
    a.toInt < (s.cfg.memSize : Int) →
    ∃ t, exec .getVal s = .next t ∧ t = { s with ds := t.ds, dar := a, tick := s.tick + 1 } ∧
      s.DsSet t s.sp (s.mem.read a.toNat)

/-- 20_memory.md R57: GET_VAL of the input address pops the head code, 0 being a code like any other, and raises
InputExhausted where there is none. That the address is TOS and the code replaces it is 41_memory_access.md R120 (D8, log 9). -/
def Obligations.GetValPopsInput : Prop :=
  (∀ s : State, 0 ≤ s.sp → s.dsRead s.sp = 0#32 → s.input = [] →
    ∃ t, exec .getVal s = .next t ∧ t.status = .inputExhausted) ∧
  ∀ (s : State) (c : Word) (rest : List Word), s.Legal → 0 ≤ s.sp → s.dsRead s.sp = 0#32 → s.input = c :: rest →
    ∃ t, exec .getVal s = .next t ∧
      t = { s with ds := t.ds, input := rest, dar := 0#32, tick := s.tick + 1 } ∧ s.DsSet t s.sp c

/-- 60_exceptions.md R203, 41_memory_access.md R120 (D20): GET_VAL of the input address with an empty queue ends the run,
the access tick counted, TOS and OUT kept. -/
def Obligations.GetValInputExhausted : Prop :=
  ∀ s : State, 0 ≤ s.sp → s.dsRead s.sp = 0#32 → s.input = [] →
    exec .getVal s = .next { s with dar := 0#32, tick := s.tick + 1, status := .inputExhausted }

/-- 41_memory_access.md R121, 20_memory.md R55: STORE_VAL to a memory cell writes that cell and no other. -/
def Obligations.StoreValWritesCell : Prop :=
  ∀ (s : State) (a : Word), s.Legal → 1 ≤ s.sp → s.dsRead (s.sp - 1) = a → a ≠ 0#32 → a ≠ 1#32 → 0 ≤ a.toInt →
    a.toInt < (s.cfg.memSize : Int) →
    ∃ t, exec .storeVal s = .next t ∧ t = { s with mem := t.mem, dar := a, sp := s.sp - 2, tick := s.tick + 1 } ∧
      s.MemSet t a.toNat (s.dsRead s.sp)

/-- 20_memory.md R58: STORE_VAL to the output address appends the value to OUT and leaves memory alone. That the address is
SOS, the value TOS and both are popped is 41_memory_access.md R121 (D9, log 9). -/
def Obligations.StoreValAppendsOutput : Prop :=
  ∀ s : State, 1 ≤ s.sp → s.dsRead (s.sp - 1) = 1#32 →
    exec .storeVal s = .next
      { s with output := s.output ++ [s.dsRead s.sp], dar := 1#32, sp := s.sp - 2, tick := s.tick + 1 }

/-- 60_exceptions.md R213, R214, 20_memory.md R59: the device addresses in the wrong direction, and addresses of no cell. -/
def Obligations.DataAccessFaults : Prop :=
  (∀ (s : State) (a : Word), 0 ≤ s.sp → s.dsRead s.sp = a →
    (a = 1#32 → s.FaultsWith (exec .getVal s) (.accessDirection .read a)) ∧
    (a ≠ 0#32 → a ≠ 1#32 → (a.toInt < 0 ∨ (s.cfg.memSize : Int) ≤ a.toInt) →
      s.FaultsWith (exec .getVal s) (.dataAddressOutOfRange .read a))) ∧
  ∀ (s : State) (a : Word), 1 ≤ s.sp → s.dsRead (s.sp - 1) = a →
    (a = 0#32 → s.FaultsWith (exec .storeVal s) (.accessDirection .write a)) ∧
    (a ≠ 0#32 → a ≠ 1#32 → (a.toInt < 0 ∨ (s.cfg.memSize : Int) ≤ a.toInt) →
      s.FaultsWith (exec .storeVal s) (.dataAddressOutOfRange .write a))

/-- 20_memory.md R67: a word stored where the next instruction is fetched is the word the next step fetches into IR. -/
def Obligations.StoredWordIsFetchedNext : Prop :=
  ∀ s t u : State, s.Legal → s.cfg.opc.Injective → s.memFetch s.pc = some (s.cfg.opc.code .STORE_VAL) → 1 ≤ s.sp →
    s.dsRead (s.sp - 1) ≠ 1#32 → s.budgetSpent = false → step s = .next t → t.status = .running →
    t.pc = s.dsRead (s.sp - 1) → t.budgetSpent = false → step t = .next u →
    u.ir = s.dsRead s.sp

/-! ### Stack instructions -/

/-- 42_stack.md R132, R134: PUSH and PUSHR put their operand word on top of their stack and step over it. -/
def Obligations.PushesComplete : Prop :=
  ∀ (s : State) (imm : Word), s.Legal →
    (s.sp < (s.cfg.dstackCap : Int) - 1 →
      ∃ t, exec (.push (some imm)) s = .next t ∧
        t = { s with ds := t.ds, sp := s.sp + 1, pc := nextPc s.pc, tick := s.tick + 1 } ∧ s.DsSet t (s.sp + 1) imm) ∧
    (s.rsp < (s.cfg.rstackCap : Int) - 1 →
      ∃ t, exec (.pushr (some imm)) s = .next t ∧
        t = { s with rs := t.rs, rsp := s.rsp + 1, pc := nextPc s.pc, tick := s.tick + 1 } ∧ s.RsSet t (s.rsp + 1) imm)

/-- 42_stack.md R131: PEEK of a live offset copies `RS[RSP - k]`. -/
def Obligations.PeekCompletes : Prop :=
  ∀ (s : State) (k : Word), s.Legal → s.sp < (s.cfg.dstackCap : Int) - 1 → 0 ≤ k.toInt → k.toInt ≤ s.rsp →
    ∃ t, exec (.peek (some k)) s = .next t ∧
      t = { s with ds := t.ds, sp := s.sp + 1, pc := nextPc s.pc, tick := s.tick + 1 } ∧
      s.DsSet t (s.sp + 1) (s.rsRead (s.rsp - k.toInt))

/-- 60_exceptions.md R209, R212, R215: PUSH and PEEK on a full operand stack, whatever the operand; PEEK of an offset that
names no live cell. -/
def Obligations.PushAndPeekFaults : Prop :=
  ∀ (s : State) (o : Option Word) (k : Word),
    ((s.cfg.dstackCap : Int) - 1 ≤ s.sp →
      s.FaultsWith (exec (.push o) s) .dStackOverflow ∧ s.FaultsWith (exec (.peek o) s) .dStackOverflow) ∧
    (s.sp < (s.cfg.dstackCap : Int) - 1 → (k.toInt < 0 ∨ s.rsp < k.toInt) →
      s.FaultsWith (exec (.peek (some k)) s) (.rStackIndex k))

/-- 42_stack.md R133, R135: DROP and DROPR move their pointer and nothing else, for DROP_TICKS ticks. -/
def Obligations.DropsComplete : Prop :=
  ∀ s : State,
    (0 ≤ s.sp → exec .drop s = .next { s with sp := s.sp - 1, tick := s.tick + s.cfg.dropTicks }) ∧
    (0 ≤ s.rsp → exec .dropr s = .next { s with rsp := s.rsp - 1, tick := s.tick + s.cfg.dropTicks })

/-- 60_exceptions.md R208: every instruction that needs operand-stack values faults when there are too few, before
anything else can be raised (R215). -/
def Obligations.OperandStackUnderflow : Prop :=
  ∀ (s : State) (i : Instr),
    ((i = .drop ∨ i = .getVal ∨ i.mnemonic = .JZ) → s.sp < 0 → s.FaultsWith (exec i s) .dStackUnderflow) ∧
    (i ∈ [Instr.storeVal, .add, .sub, .mod, .eq, .or] → s.sp < 1 → s.FaultsWith (exec i s) .dStackUnderflow)

/-! ### Arithmetic -/

/-- 00_scope.md R8: `wrap` adds or subtracts RANGE at most once each way, and for every integer up to one RANGE outside
the Word range it is the two's-complement wrap-around. -/
def Obligations.WrapIsTwosComplement : Prop :=
  ∀ r : Int,
    (r < minSign → wrap r = r + wordRange) ∧ (maxSign < r → wrap r = r - wordRange) ∧
    (minSign ≤ r → r ≤ maxSign → wrap r = r) ∧
    (minSign - wordRange ≤ r → r ≤ maxSign + wordRange →
      wrap r = (BitVec.ofInt 32 r).toInt ∧ minSign ≤ wrap r ∧ wrap r ≤ maxSign)

/-- 43_alu.md R151 to R153: ADD and SUB replace SOS by the wrapped sum and difference `SOS - TOS`, which is the sum and
difference modulo 2^32, and drop TOS. -/
def Obligations.AddSubComplete : Prop :=
  ∀ s : State, s.Legal → 1 ≤ s.sp →
    (∃ t v, exec .add s = .next t ∧ t = { s with ds := t.ds, sp := s.sp - 1, tick := s.tick + 1 } ∧
      s.DsSet t (s.sp - 1) v ∧ v.toInt = wrap ((s.dsRead (s.sp - 1)).toInt + (s.dsRead s.sp).toInt) ∧
      v = s.dsRead (s.sp - 1) + s.dsRead s.sp) ∧
    (∃ t v, exec .sub s = .next t ∧ t = { s with ds := t.ds, sp := s.sp - 1, tick := s.tick + 1 } ∧
      s.DsSet t (s.sp - 1) v ∧ v.toInt = wrap ((s.dsRead (s.sp - 1)).toInt - (s.dsRead s.sp).toInt) ∧
      v = s.dsRead (s.sp - 1) - s.dsRead s.sp)

/-- 43_alu.md R154, 60_exceptions.md R216: MOD with a non-zero divisor completes: under the default MOD_FN the result is
`left - right * floor(left/right)`, 0 or of the divisor's sign; under the truncated reading (log 12) it is the truncated
remainder; either is smaller than the divisor in magnitude, and a zero divisor raises DivideByZero. Under the
implementation's own MOD_FN (log 12) the result is that function's, and DivideByZero is raised where it faults. -/
def Obligations.ModCompletes : Prop :=
  (∀ s : State, s.Legal → 1 ≤ s.sp → s.dsRead s.sp ≠ 0#32 → s.cfg.modFn ≠ .own →
    ∃ t v, exec .mod s = .next t ∧ t = { s with ds := t.ds, sp := s.sp - 1, tick := s.tick + 1 } ∧
      s.DsSet t (s.sp - 1) v ∧
      (s.cfg.modFn = .floored →
        v.toInt = (s.dsRead (s.sp - 1)).toInt -
          (s.dsRead s.sp).toInt * (s.dsRead (s.sp - 1)).toInt.fdiv (s.dsRead s.sp).toInt ∧
        (v.toInt = 0 ∨ v.toInt.sign = (s.dsRead s.sp).toInt.sign)) ∧
      (s.cfg.modFn = .truncated → v.toInt = (s.dsRead (s.sp - 1)).toInt.tmod (s.dsRead s.sp).toInt) ∧
      v.toInt.natAbs < (s.dsRead s.sp).toInt.natAbs) ∧
  (∀ s : State, 1 ≤ s.sp → s.dsRead s.sp = 0#32 → s.cfg.modFn ≠ .own → s.FaultsWith (exec .mod s) .divideByZero) ∧
  ∀ s : State, s.Legal → 1 ≤ s.sp → s.cfg.modFn = .own →
    (∀ v, Config.modOwn (s.dsRead (s.sp - 1)) (s.dsRead s.sp) = some v → ∃ t, exec .mod s = .next t ∧
      t = { s with ds := t.ds, sp := s.sp - 1, tick := s.tick + 1 } ∧ s.DsSet t (s.sp - 1) v) ∧
    (Config.modOwn (s.dsRead (s.sp - 1)) (s.dsRead s.sp) = none → s.FaultsWith (exec .mod s) .divideByZero)

/-- 43_alu.md R155: EQ gives EQ_TRUE for equal words and 0 otherwise. -/
def Obligations.EqCompletes : Prop :=
  ∀ s : State, s.Legal → 1 ≤ s.sp →
    ∃ t v, exec .eq s = .next t ∧ t = { s with ds := t.ds, sp := s.sp - 1, tick := s.tick + 1 } ∧
      s.DsSet t (s.sp - 1) v ∧
      (s.dsRead (s.sp - 1) = s.dsRead s.sp → v = s.cfg.eqTrue) ∧
      (s.dsRead (s.sp - 1) ≠ s.dsRead s.sp → v = 0#32)

/-- 43_alu.md R156, 00_scope.md R6: OR is 0 exactly when both operands are 0, under every reading of OR_FN (log 12); by
default it is the bitwise OR, under the logical reading 0 or 1, under the third the first operand that is not 0, and under
the implementation's own that function's value wherever that meets the constraint. -/
def Obligations.OrCompletes : Prop :=
  ∀ s : State, s.Legal → 1 ≤ s.sp →
    ∃ t v, exec .or s = .next t ∧ t = { s with ds := t.ds, sp := s.sp - 1, tick := s.tick + 1 } ∧
      s.DsSet t (s.sp - 1) v ∧
      (v = 0#32 ↔ s.dsRead (s.sp - 1) = 0#32 ∧ s.dsRead s.sp = 0#32) ∧
      (s.cfg.orFn = .bitwise → v = s.dsRead (s.sp - 1) ||| s.dsRead s.sp) ∧
      (s.cfg.orFn = .logical → v = 0#32 ∨ v = 1#32) ∧
      (s.cfg.orFn = .firstNonZero → (s.dsRead (s.sp - 1) ≠ 0#32 → v = s.dsRead (s.sp - 1)) ∧
        (s.dsRead (s.sp - 1) = 0#32 → v = s.dsRead s.sp)) ∧
      (s.cfg.orFn = .own → (Config.orOwn (s.dsRead (s.sp - 1)) (s.dsRead s.sp) = 0#32 ↔
          s.dsRead (s.sp - 1) = 0#32 ∧ s.dsRead s.sp = 0#32) →
        v = Config.orOwn (s.dsRead (s.sp - 1)) (s.dsRead s.sp))

/-! ### Frames: what an instruction leaves unchanged when it answers a next state that is no fault (R218, D32) -/

/-- 10_state.md R20: only STORE_VAL writes memory or OUT; only GET_VAL takes from IN, and only when its address is the
input device's. -/
def Obligations.FrameMemoryAndDevices : Prop :=
  ∀ (i : Instr) (s t : State), exec i s = .next t → t.isFaulted = false →
    (i ≠ .storeVal → t.output = s.output ∧ ∀ a : Nat, t.mem.read a = s.mem.read a) ∧
    (i ≠ .getVal ∨ s.tos ≠ some 0#32 → t.input = s.input)

/-- 41_memory_access.md R121: of memory STORE_VAL changes at most the one cell its address (SOS) names, and none when that
is the output device; of everything else only SP, DAR, TICK and, for the output device, OUT. -/
def Obligations.FrameStoreVal : Prop :=
  ∀ s t : State, exec .storeVal s = .next t → t.isFaulted = false → s.isFaulted = false →
    t = { s with mem := t.mem, output := t.output, dar := t.dar, sp := t.sp, tick := t.tick } ∧
    ∀ a : Word, s.sos = some a →
      (∀ b : Nat, b ≠ a.toNat → t.mem.read b = s.mem.read b) ∧
      (a = 1#32 → ∀ b : Nat, t.mem.read b = s.mem.read b) ∧ (a ≠ 1#32 → t.output = s.output)

/-- 10_state.md R20: no instruction's execute phase writes the parameters, IR or ICOUNT; only GET_VAL and STORE_VAL write
DAR; PC is written only by JMP, JZ, CALL, RET, PUSH, PUSHR and PEEK. -/
def Obligations.FrameInternalRegisters : Prop :=
  ∀ (i : Instr) (s t : State), exec i s = .next t → t.isFaulted = false →
    t.cfg = s.cfg ∧ t.ir = s.ir ∧ t.icount = s.icount ∧
    (i ≠ .getVal → i ≠ .storeVal → t.dar = s.dar) ∧
    (i.mnemonic ∉ [Mnemonic.JMP, .JZ, .CALL, .RET, .PUSH, .PUSHR, .PEEK] → t.pc = s.pc)

/-- 10_state.md R20: RSP is written only by CALL, RET, PUSHR and DROPR; the return stack's cells only by CALL and PUSHR,
and of those only the new top. -/
def Obligations.FrameReturnStack : Prop :=
  ∀ (i : Instr) (s t : State), exec i s = .next t → t.isFaulted = false →
    (i.mnemonic ∉ [Mnemonic.CALL, .RET, .PUSHR, .DROPR] → t.rsp = s.rsp) ∧
    (i.mnemonic ∉ [Mnemonic.CALL, .PUSHR] → ∀ j : Nat, t.rs.read j = s.rs.read j) ∧
    ∀ j : Nat, j ≠ (s.rsp + 1).toNat → t.rs.read j = s.rs.read j

/-- 10_state.md R20: which instructions write SP and the operand stack's cells, and which cell each writes: the new top
(PUSH, PEEK), the old top (GET_VAL), SOS (the arithmetic instructions). -/
def Obligations.FrameOperandStack : Prop :=
  ∀ (i : Instr) (s t : State), exec i s = .next t → t.isFaulted = false →
    (i.mnemonic ∈ [Mnemonic.HLT, .JMP, .CALL, .RET, .GET_VAL, .PUSHR, .DROPR] → t.sp = s.sp) ∧
    ∀ j : Nat,
      (i.mnemonic ∈ [Mnemonic.HLT, .JMP, .JZ, .CALL, .RET, .STORE_VAL, .DROP, .PUSHR, .DROPR] ∨
        (i.mnemonic ∈ [Mnemonic.PUSH, .PEEK] ∧ j ≠ (s.sp + 1).toNat) ∨
        (i.mnemonic = .GET_VAL ∧ j ≠ s.sp.toNat) ∨
        (i.mnemonic ∈ [Mnemonic.ADD, .SUB, .MOD, .EQ, .OR] ∧ j ≠ (s.sp - 1).toNat)) →
      t.ds.read j = s.ds.read j

/-! ### Whole-machine rules, over every step -/

/-- The invariant: both stack pointers in range (10_state.md R26) and every array canonical and within its size, kept by
every step from every legal state. -/
def Obligations.StepKeepsLegal : Prop :=
  ∀ s t : State, s.Legal → step s = .next t → t.Legal

/-- 20_memory.md R51, 60_exceptions.md R221: no step writes memory cells 0 and 1, and no step writes a parameter. -/
def Obligations.StepKeepsLowCells : Prop :=
  ∀ s t : State, step s = .next t → t.mem.read 0 = s.mem.read 0 ∧ t.mem.read 1 = s.mem.read 1 ∧ t.cfg = s.cfg

/-- 10_state.md R34: IN only shrinks, from its head, and OUT only grows, at its end, by at most one code a step; TICK
never decreases (R31). -/
def Obligations.StepKeepsDeviceHistory : Prop :=
  ∀ s t : State, step s = .next t →
    (s.input = t.input ∨ ∃ c, s.input = c :: t.input) ∧
    (t.output = s.output ∨ ∃ v, t.output = s.output ++ [v]) ∧ s.tick ≤ t.tick

/-- 60_exceptions.md R218: no fault alters OUT; nor does any other condition. -/
def Obligations.ConditionsKeepOutput : Prop :=
  ∀ s t : State, step s = .next t → t.status ≠ .running → t.output = s.output

/-- 10_state.md R32: ICOUNT counts exactly the steps that end with the machine still running. -/
def Obligations.InstructionCount : Prop :=
  ∀ s t : State, step s = .next t →
    (t.status = .running → t.icount = s.icount + 1) ∧ (t.status ≠ .running → t.icount = s.icount)

/-- 40_control_flow.md R107, 70_reset_and_hazards.md R241: the tick cost of a completed instruction. -/
def Obligations.TickCostOfCompleted : Prop :=
  ∀ (s t : State) (w : Word) (i : Instr), s.status = .running → s.budgetSpent = false → s.memFetch s.pc = some w →
    decode s.cfg.opc w (s.memFetch (nextPc s.pc)) = .ok i → step s = .next t →
    (t.status = .running → t.tick = s.tick + tickCost s.cfg i) ∧ (i = .hlt → t.tick = s.tick + 1)

/-- 60_exceptions.md R202: Halt is raised by HLT, and by nothing else. -/
def Obligations.HaltedExactlyByHlt : Prop :=
  ∀ s t : State, s.cfg.opc.Injective → step s = .next t →
    (t.status = .halted ↔ s.budgetSpent = false ∧ s.memFetch s.pc = some (s.cfg.opc.code .HLT))

/-- 60_exceptions.md R203: InputExhausted is raised by GET_VAL of the input address with an empty queue, and by nothing
else. -/
def Obligations.InputExhaustedExactly : Prop :=
  ∀ s t : State, s.cfg.opc.Injective → step s = .next t →
    (t.status = .inputExhausted ↔ s.budgetSpent = false ∧ s.memFetch s.pc = some (s.cfg.opc.code .GET_VAL) ∧
      0 ≤ s.sp ∧ s.dsRead s.sp = 0#32 ∧ s.input = [])

/-- 70_reset_and_hazards.md R241, R242: with DROP_TICKS = 1, TICK stays between 3 and 4 times ICOUNT while the machine
runs, and a run that ends without a fault ends at most 2 ticks above that. -/
def Obligations.StepKeepsTickBounds : Prop :=
  ∀ s t : State, s.cfg.dropTicks = 1 → 3 * s.icount ≤ s.tick → s.tick ≤ 4 * s.icount → step s = .next t →
    (t.status = .running → 3 * t.icount ≤ t.tick ∧ t.tick ≤ 4 * t.icount) ∧
    (t.isFaulted = false → 3 * t.icount ≤ t.tick ∧ t.tick ≤ 4 * t.icount + 2)

/-! ### The instruction encoder -/

/-- 49_assembler.md R174, R176: the image is `[start] ++ code ++ data`, one Word an entry, no value truncated, and every
name it uses (a text that is no numeric string, log 15) is in the symbol table. -/
def Obligations.EncoderImageContents : Prop :=
  ∀ (opc : OpcMap) (src : Source) (image : List Word), assemble opc src = .ok image →
    image.length = 1 + src.instrs.length + src.data.length ∧
    image[0]?.map BitVec.toInt = some src.start ∧
    (∀ (k : Nat) (e : Entry), src.instrs[k]? = some e →
      ∃ w, image[k + 1]? = some w ∧ resolve opc src.symbols src.instrs.length e = .ok w) ∧
    (∀ (k : Nat) (d : Int), src.data[k]? = some d →
      image[1 + src.instrs.length + k]?.map BitVec.toInt = some d) ∧
    ∀ s : List Char, Entry.text s ∈ src.instrs → (∀ n, ¬ Denotes s n) → ∃ x ∈ src.symbols, x.1 = s

/-- 49_assembler.md R173: how one entry resolves: an opcode to its code, a literal or numeric string to its value, a code
symbol to its position, a data symbol to its position plus the code length, with RangeError and UndefinedSymbol. Which texts
are numeric strings and what they denote is `Denotes` (R170, D34, log 15), any other text is a name, and of two entries with
one name the first counts (log 15). -/
def Obligations.ResolveFollowsRule : Prop :=
  ∀ (opc : OpcMap) (symbols : List (List Char × SymbolKind × Int)) (cl : Nat),
    (∀ m, resolve opc symbols cl (.op m) = .ok (opc.code m)) ∧
    (∀ s, (∀ n, ¬ Denotes s n) → (∀ x ∈ symbols, x.1 ≠ s) →
      resolve opc symbols cl (.text s) = .error (.undefinedSymbol s)) ∧
    ∀ (e : Entry) (n : Int),
      (e = .lit n ∨
        (∃ s, e = .text s ∧ Denotes s n) ∨
        (∃ s kind p pre post, e = .text s ∧ (∀ m, ¬ Denotes s m) ∧ symbols = pre ++ (s, kind, p) :: post ∧
          (∀ x ∈ pre, x.1 ≠ s) ∧ (kind = .code → n = p) ∧ (kind = .data → n = cl + p))) →
      (minSign ≤ n → n ≤ maxSign → ∃ w, resolve opc symbols cl e = .ok w ∧ w.toInt = n) ∧
      ((n < minSign ∨ maxSign < n) → resolve opc symbols cl e = .error (.rangeError n))

/-- 49_assembler.md R175 (D26): the error reported is the first in the order instruction list, data list, start offset. -/
def Obligations.EncoderReportsFirstError : Prop :=
  ∀ (opc : OpcMap) (src : Source) (err : EncodeError), assemble opc src = .error err →
    (∃ pre e post, src.instrs = pre ++ e :: post ∧ resolve opc src.symbols src.instrs.length e = .error err ∧
      ∀ x ∈ pre, ∃ w, resolve opc src.symbols src.instrs.length x = .ok w) ∨
    ((∀ x ∈ src.instrs, ∃ w, resolve opc src.symbols src.instrs.length x = .ok w) ∧
      ((∃ pre d post, src.data = pre ++ d :: post ∧ err = .rangeError d ∧ (d < minSign ∨ maxSign < d) ∧
          ∀ x ∈ pre, minSign ≤ x ∧ x ≤ maxSign) ∨
        ((∀ x ∈ src.data, minSign ≤ x ∧ x ≤ maxSign) ∧ err = .rangeError src.start ∧
          (src.start < minSign ∨ maxSign < src.start))))

/-- 49_assembler.md R178 (D27): the listing has one line for each Word of the image, in order: the index in hexadecimal
padded to 2 digits, ` - `, the value in hexadecimal padded to 8, ` - `, the label. The label of an opcode entry is the opcode's
name, of a literal `Number-value`, of a name `Address: ` and the name, of the entry word and the data Words `Number-value`; of
a numeric string `Number-value`, which is the model's choice (log 15). A negative Word is its 32-bit pattern, or a minus sign
and the magnitude padded to 8 digits, as LISTING_NEG says (log 16). -/
def Obligations.ListingOneLinePerWord : Prop :=
  ∀ (neg : ListingNeg) (opc : OpcMap) (src : Source) (image : List Word), assemble opc src = .ok image →
    ∃ lines, listing neg opc src = .ok lines ∧ lines.length = image.length ∧
      ∀ (k : Nat) (w : Word), image[k]? = some w → ∃ index value label : List Char,
        lines[k]? = some (index ++ [' ', '-', ' '] ++ value ++ [' ', '-', ' '] ++ label) ∧
        IsPaddedHex 2 k index ∧
        (0 ≤ w.toInt ∨ neg = .pattern → IsPaddedHex 8 w.toNat value) ∧
        (w.toInt < 0 → neg = .signMagnitude → ∃ m, value = '-' :: m ∧ IsPaddedHex 8 w.toInt.natAbs m) ∧
        ((k = 0 ∨ src.instrs.length < k) → label = ['N', 'u', 'm', 'b', 'e', 'r', '-', 'v', 'a', 'l', 'u', 'e']) ∧
        ∀ e, 0 < k → src.instrs[k - 1]? = some e →
          (∀ m name, (m, name) ∈ opcodeNames → e = .op m → label = name) ∧
          (∀ n, e = .lit n → label = ['N', 'u', 'm', 'b', 'e', 'r', '-', 'v', 'a', 'l', 'u', 'e']) ∧
          ∀ s, e = .text s →
            ((∃ n, Denotes s n) → label = ['N', 'u', 'm', 'b', 'e', 'r', '-', 'v', 'a', 'l', 'u', 'e']) ∧
            ((∀ n, ¬ Denotes s n) → label = ['A', 'd', 'd', 'r', 'e', 's', 's', ':', ' '] ++ s)
end

