-- ==== Sys2Proof/Laws/Cells.lean ====
section
/-! SUPPORT. The laws of sparse arrays: read after write, the canonical form, the bound on indices, loading a list. -/

namespace Sys2Proof.Machine

@[simp] theorem Cells.read_nil (a : Nat) : Cells.read [] a = 0#32 := rfl

@[simp] theorem Cells.wf_nil : Cells.wf [] = true := rfl

@[simp] theorem Cells.within_nil (n : Nat) : Cells.within n [] = true := rfl

theorem Cells.wfFrom_cons {lo k : Nat} {v : Word} {c : Cells} :
    Cells.wfFrom lo ((k, v) :: c) = true ↔ (lo ≤ k ∧ v ≠ 0#32) ∧ Cells.wfFrom (k + 1) c = true := by
  simp [Cells.wfFrom]

theorem Cells.within_cons {n k : Nat} {v : Word} {c : Cells} :
    Cells.within n ((k, v) :: c) = true ↔ k < n ∧ Cells.within n c = true := by
  simp [Cells.within]

/-- A smaller lower bound holds as well. -/
theorem Cells.wfFrom_mono {lo lo' : Nat} {c : Cells} (h : Cells.wfFrom lo c = true) (hle : lo' ≤ lo) :
    Cells.wfFrom lo' c = true := by
  cases c with
  | nil => rfl
  | cons kv c =>
    obtain ⟨k, v⟩ := kv
    rw [Cells.wfFrom_cons] at h ⊢
    exact ⟨⟨hle.trans h.1.1, h.1.2⟩, h.2⟩

/-- Below the first listed index every cell reads 0. -/
theorem Cells.read_eq_zero_of_wfFrom {lo a : Nat} {c : Cells} (h : Cells.wfFrom lo c = true) (ha : a < lo) :
    Cells.read c a = 0#32 := by
  induction c generalizing lo with
  | nil => rfl
  | cons kv c ih =>
    obtain ⟨k, v⟩ := kv
    rw [Cells.wfFrom_cons] at h
    have hk : k ≠ a := by omega
    simpa [Cells.read, hk] using ih h.2 (by omega)

/-- A write leaves every other index alone. -/
theorem Cells.read_write_ne (c : Cells) {a b : Nat} (v : Word) (hab : b ≠ a) :
    Cells.read (Cells.write c a v) b = Cells.read c b := by
  induction c with
  | nil => by_cases hv : v = 0#32 <;> simp [Cells.write, Cells.read, hv, hab.symm]
  | cons kv c ih =>
    obtain ⟨k, w⟩ := kv
    rcases lt_trichotomy a k with h | rfl | h
    · by_cases hv : v = 0#32 <;> simp [Cells.write, Cells.read, h, hv, hab.symm]
    · by_cases hv : v = 0#32 <;> simp [Cells.write, Cells.read, hv, hab.symm]
    · simp [Cells.write, Cells.read, ih, h.ne', h.not_gt]

/-- A write puts its word at its index; the canonical form matters only for writing 0. -/
theorem Cells.read_write_self_of_wfFrom {lo : Nat} {c : Cells} (h : Cells.wfFrom lo c = true) (a : Nat) (v : Word) :
    Cells.read (Cells.write c a v) a = v := by
  induction c generalizing lo with
  | nil => by_cases hv : v = 0#32 <;> simp [Cells.write, Cells.read, hv]
  | cons kv c ih =>
    obtain ⟨k, w⟩ := kv
    rw [Cells.wfFrom_cons] at h
    rcases lt_trichotomy a k with hk | rfl | hk
    · by_cases hv : v = 0#32
      · simp [Cells.write, Cells.read, hk, hv, hk.ne', Cells.read_eq_zero_of_wfFrom h.2 (Nat.lt_succ_of_lt hk)]
      · simp [Cells.write, Cells.read, hk, hv]
    · by_cases hv : v = 0#32
      · simp [Cells.write, hv, Cells.read_eq_zero_of_wfFrom h.2 (Nat.lt_succ_self a)]
      · simp [Cells.write, Cells.read, hv]
    · simp [Cells.write, Cells.read, hk.ne', hk.not_gt, hk.ne, ih h.2]

/-- Read after write at the same index. -/
theorem Cells.read_write_self {c : Cells} (h : Cells.wf c = true) (a : Nat) (v : Word) :
    Cells.read (Cells.write c a v) a = v := Cells.read_write_self_of_wfFrom h a v

/-- A write keeps the canonical form above any lower bound it respects. -/
theorem Cells.wfFrom_write {lo : Nat} {c : Cells} (h : Cells.wfFrom lo c = true) {a : Nat} (ha : lo ≤ a) (v : Word) :
    Cells.wfFrom lo (Cells.write c a v) = true := by
  induction c generalizing lo with
  | nil => by_cases hv : v = 0#32 <;> simp [Cells.write, Cells.wfFrom, hv, ha]
  | cons kv c ih =>
    obtain ⟨k, w⟩ := kv
    have h' := Cells.wfFrom_cons.1 h
    rcases lt_trichotomy a k with hk | rfl | hk
    · by_cases hv : v = 0#32
      · simpa [Cells.write, hk, hv] using h
      · simp only [Cells.write, hk, if_true, hv, if_false, Cells.wfFrom_cons]
        exact ⟨⟨ha, hv⟩, ⟨hk, h'.1.2⟩, h'.2⟩
    · by_cases hv : v = 0#32
      · simpa [Cells.write, hv] using Cells.wfFrom_mono h'.2 (Nat.le_succ_of_le ha)
      · simp only [Cells.write, lt_irrefl, if_false, if_true, hv, Cells.wfFrom_cons]
        exact ⟨⟨ha, hv⟩, h'.2⟩
    · simp only [Cells.write, hk.not_gt, if_false, hk.ne', Cells.wfFrom_cons]
      exact ⟨h'.1, ih h'.2 hk⟩

/-- Every write keeps the canonical form. -/
theorem Cells.wf_write {c : Cells} (h : Cells.wf c = true) (a : Nat) (v : Word) :
    Cells.wf (Cells.write c a v) = true := Cells.wfFrom_write h (Nat.zero_le a) v

/-- A write below the bound lists no cell outside it. -/
theorem Cells.within_write {n : Nat} {c : Cells} (h : Cells.within n c = true) {a : Nat} (ha : a < n) (v : Word) :
    Cells.within n (Cells.write c a v) = true := by
  induction c with
  | nil => by_cases hv : v = 0#32 <;> simp [Cells.write, Cells.within, hv, ha]
  | cons kv c ih =>
    obtain ⟨k, w⟩ := kv
    have h' := Cells.within_cons.1 h
    simp only [Cells.write]
    split
    · split
      · exact h
      · exact Cells.within_cons.2 ⟨ha, h⟩
    · split
      · split
        · exact h'.2
        · exact Cells.within_cons.2 ⟨ha, h'.2⟩
      · exact Cells.within_cons.2 ⟨h'.1, ih h'.2⟩

/-- A larger bound holds as well. -/
theorem Cells.within_mono {n n' : Nat} {c : Cells} (h : Cells.within n c = true) (hle : n ≤ n') :
    Cells.within n' c = true := by
  induction c with
  | nil => rfl
  | cons kv c ih =>
    obtain ⟨k, v⟩ := kv
    rw [Cells.within_cons] at h ⊢
    exact ⟨h.1.trans_le hle, ih h.2⟩

theorem Cells.wfFrom_ofListFrom (n : Nat) (ws : List Word) : Cells.wfFrom n (Cells.ofListFrom n ws) = true := by
  induction ws generalizing n with
  | nil => rfl
  | cons w ws ih =>
    by_cases hw : w = 0#32
    · simpa [Cells.ofListFrom, hw] using Cells.wfFrom_mono (ih (n + 1)) (Nat.le_succ n)
    · simp [Cells.ofListFrom, hw, Cells.wfFrom, ih]

/-- A loaded array is canonical. -/
theorem Cells.wf_ofList (ws : List Word) : Cells.wf (Cells.ofList ws) = true := Cells.wfFrom_ofListFrom 0 ws

theorem Cells.within_ofListFrom (n m : Nat) (ws : List Word) (h : n + ws.length ≤ m) :
    Cells.within m (Cells.ofListFrom n ws) = true := by
  induction ws generalizing n with
  | nil => rfl
  | cons w ws ih =>
    have hn := ih (n + 1) (by simp only [List.length_cons] at h; omega)
    by_cases hw : w = 0#32
    · simpa [Cells.ofListFrom, hw] using hn
    · have : n < m := by simp only [List.length_cons] at h; omega
      simp [Cells.ofListFrom, hw, Cells.within, hn, this]

/-- A loaded array lists no cell past the words loaded. -/
theorem Cells.within_ofList (m : Nat) (ws : List Word) (h : ws.length ≤ m) :
    Cells.within m (Cells.ofList ws) = true := Cells.within_ofListFrom 0 m ws (by omega)

theorem Cells.read_ofListFrom (n a : Nat) (ws : List Word) :
    Cells.read (Cells.ofListFrom n ws) (n + a) = ws.getD a 0#32 := by
  induction ws generalizing n a with
  | nil => simp [Cells.ofListFrom]
  | cons w ws ih =>
    cases a with
    | zero =>
      by_cases hw : w = 0#32
      · simp [Cells.ofListFrom, hw, Cells.read_eq_zero_of_wfFrom (Cells.wfFrom_ofListFrom (n + 1) ws) (Nat.lt_succ_self n)]
      · simp [Cells.ofListFrom, hw, Cells.read]
    | succ a =>
      have h := ih (n + 1) a
      rw [show n + 1 + a = n + (a + 1) by omega] at h
      by_cases hw : w = 0#32
      · simpa [Cells.ofListFrom, hw] using h
      · simpa [Cells.ofListFrom, hw, Cells.read] using h

/-- A loaded array reads as the list, and as 0 past its end. -/
theorem Cells.read_ofList (a : Nat) (ws : List Word) : Cells.read (Cells.ofList ws) a = ws.getD a 0#32 := by
  simpa [Cells.ofList] using Cells.read_ofListFrom 0 a ws

end Sys2Proof.Machine
end

