-- ==== Sys2Proof/Laws/Decode.lean ====
section
/-! SUPPORT. The laws of the opcode map, of decoding, and of the shapes of instructions. -/

namespace Sys2Proof

theorem Mnemonic.mem_all (m : Mnemonic) : m ∈ Mnemonic.all := by cases m <;> decide

/-- The default codes are pairwise different (R85). -/
theorem defaultOpc_injective : defaultOpc.Injective := by
  intro m n
  cases m <;> cases n <;> decide

/-- A mnemonic found for a word has that word as its code (R83). -/
theorem code_of_mnemonicOf {opc : OpcMap} {w : Word} {m : Mnemonic} (h : mnemonicOf opc w = some m) : opc.code m = w := by
  simpa using List.find?_some h

/-- No mnemonic is found exactly where no code equals the word (R87). -/
theorem mnemonicOf_eq_none_iff {opc : OpcMap} {w : Word} : mnemonicOf opc w = none ↔ ∀ m, opc.code m ≠ w := by
  simp [mnemonicOf, List.find?_eq_none, Mnemonic.mem_all]

/-- The code of a mnemonic finds that mnemonic, the map being injective. -/
theorem mnemonicOf_code {opc : OpcMap} (h : opc.Injective) (m : Mnemonic) : mnemonicOf opc (opc.code m) = some m := by
  cases hm : mnemonicOf opc (opc.code m) with
  | none => exact absurd rfl (mnemonicOf_eq_none_iff.1 hm m)
  | some n => exact congrArg some (h n m (code_of_mnemonicOf hm))

/-- What decoding answers: IllegalOpcode of a word no mnemonic has, otherwise that mnemonic's instruction. -/
theorem decode_cases (opc : OpcMap) (w : Word) (next : Option Word) :
    (mnemonicOf opc w = none ∧ decode opc w next = .error (.illegalOpcode w)) ∨
    ∃ m, mnemonicOf opc w = some m ∧ decode opc w next = .ok (Instr.ofMnemonic m next) := by
  cases h : mnemonicOf opc w with
  | none => exact .inl ⟨rfl, by simp [decode, h]⟩
  | some m => exact .inr ⟨m, rfl, by simp [decode, h]⟩

@[simp] theorem Instr.mnemonic_ofMnemonic (m : Mnemonic) (o : Option Word) : (Instr.ofMnemonic m o).mnemonic = m := by
  cases m <;> rfl

/-- An instruction is its mnemonic and its operand. -/
@[simp] theorem Instr.ofMnemonic_self (i : Instr) : Instr.ofMnemonic i.mnemonic i.operand = i := by
  cases i <;> rfl

/-- An instruction decoded with a next word is well formed. -/
theorem Instr.wf_ofMnemonic_some (m : Mnemonic) (w : Word) : (Instr.ofMnemonic m (some w)).wf = true := by
  cases m <;> rfl

end Sys2Proof
end

