-- ==== Sys2Proof/Laws/Encoder.lean ====
section
/-! SUPPORT. What the encoder's shared operations give: numeric strings, symbol lookup, range check, hexadecimal. -/

namespace Sys2Proof.Machine

theorem isDigit_iff_mem (c : Char) : c.isDigit = true ↔ c ∈ decDigits := by
  constructor
  · intro h
    simp only [Char.isDigit, Bool.and_eq_true, decide_eq_true_eq] at h
    have h1 : 48 ≤ c.toNat := h.1
    have h2 : c.toNat ≤ 57 := h.2
    have hc : c = Char.ofNat c.toNat := (Char.ofNat_toNat c).symm
    rw [hc]
    generalize c.toNat = n at h1 h2
    interval_cases n <;> decide
  · intro h
    simp only [decDigits, List.mem_cons, List.not_mem_nil, or_false] at h
    rcases h with rfl | rfl | rfl | rfl | rfl | rfl | rfl | rfl | rfl | rfl <;> decide

theorem idxOf_decDigits {c : Char} (h : c ∈ decDigits) : ((decDigits.idxOf c : Nat) : Int) = (c.toNat : Int) - 48 := by
  simp only [decDigits, List.mem_cons, List.not_mem_nil, or_false] at h
  rcases h with rfl | rfl | rfl | rfl | rfl | rfl | rfl | rfl | rfl | rfl <;> decide

/-- The value of a decimal numeral is the fold the encoder computes. -/
theorem foldl_decDigits (ds : List Char) (h : ∀ c ∈ ds, c ∈ decDigits) (k : Nat) :
    ds.foldl (fun n d => 10 * n + ((d.toNat : Int) - 48)) (k : Int) =
      (ds.foldl (fun n c => decDigits.length * n + decDigits.idxOf c) k : Nat) := by
  induction ds generalizing k with
  | nil => rfl
  | cons d ds ih =>
    rw [List.forall_mem_cons] at h
    simp only [List.foldl_cons]
    rw [← ih h.2, Nat.cast_add, Nat.cast_mul, idxOf_decDigits h.1]
    rfl

theorem parseDigits_eq_some_iff {ds : List Char} {n : Int} :
    parseDigits ds = some n ↔ IsNumeral decDigits ds ∧ n = numeralValue decDigits ds := by
  have key : (ds.isEmpty || !ds.all Char.isDigit) = true ↔ ¬ IsNumeral decDigits ds := by
    simp [IsNumeral, isDigit_iff_mem, or_iff_not_imp_left]
  unfold parseDigits
  split
  next h => simp [key.1 h]
  next h =>
    have hn : IsNumeral decDigits ds := by simpa [key] using h
    simp only [hn, true_and, Option.some.injEq]
    rw [show (0 : Int) = ((0 : Nat) : Int) from rfl, foldl_decDigits ds hn.2, eq_comm]
    rfl

/-- The numeric strings and what they denote (49_assembler.md R170, D34). -/
theorem parseNumeral_eq_some_iff {s : List Char} {n : Int} : parseNumeral s = some n ↔ Denotes s n := by
  unfold parseNumeral Denotes
  split
  next ds =>
    have hm : ¬ IsNumeral decDigits ('-' :: ds) := fun h => absurd (h.2 _ List.mem_cons_self) (by decide)
    simp only [Option.map_eq_some_iff, parseDigits_eq_some_iff, hm, false_and, false_or, List.cons.injEq, true_and]
    constructor
    · rintro ⟨_, ⟨h, rfl⟩, rfl⟩; exact ⟨ds, rfl, h, rfl⟩
    · rintro ⟨_, rfl, h, rfl⟩; exact ⟨_, ⟨h, rfl⟩, rfl⟩
  next hd =>
    rw [parseDigits_eq_some_iff]
    exact ⟨.inl, fun h => h.resolve_right fun ⟨ds, e, _⟩ => hd ds e⟩

/-- Any other text is a name. -/
theorem parseNumeral_eq_none_iff {s : List Char} : parseNumeral s = none ↔ ∀ n, ¬ Denotes s n := by
  simp [Option.eq_none_iff_forall_ne_some, ← parseNumeral_eq_some_iff]

/-- A name has no entry exactly where the table does not list it (49_assembler.md R171). -/
theorem lookupSymbol_eq_none_iff {symbols : List (List Char × SymbolKind × Int)} {s : List Char} :
    lookupSymbol symbols s = none ↔ ∀ x ∈ symbols, x.1 ≠ s := by
  induction symbols with
  | nil => simp [lookupSymbol]
  | cons x xs ih => by_cases h : x.1 = s <;> simp [lookupSymbol, h, ih]

/-- The first entry of a name is the one found. -/
theorem lookupSymbol_append {pre post : List (List Char × SymbolKind × Int)} {s : List Char} {e : SymbolKind × Int}
    (h : ∀ x ∈ pre, x.1 ≠ s) : lookupSymbol (pre ++ (s, e) :: post) s = some e := by
  induction pre with
  | nil => simp [lookupSymbol]
  | cons x xs ih =>
    rw [List.forall_mem_cons] at h
    simp [lookupSymbol, h.1, ih h.2]

theorem rangeChecked_of_mem {n : Int} (h : minSign ≤ n) (h' : n ≤ maxSign) :
    rangeChecked n = .ok (BitVec.ofInt 32 n) := if_neg (by omega)

theorem rangeChecked_of_out {n : Int} (h : n < minSign ∨ maxSign < n) : rangeChecked n = .error (.rangeError n) :=
  if_pos h

/-- The upper-case digit of a number below 16 stands for it. -/
theorem upper_digitChar : ∀ d : Fin 16, (Nat.digitChar d).toUpper ∈ hexDigits ∧
    hexDigits.idxOf (Nat.digitChar d).toUpper = d ∧ ((Nat.digitChar d).toUpper = '0' → d = 0) := by decide

theorem numeralValue_append_singleton (digits s : List Char) (c : Char) :
    numeralValue digits (s ++ [c]) = digits.length * numeralValue digits s + digits.idxOf c := by
  simp [numeralValue]

theorem numeralValue_zeros (k : Nat) (s : List Char) :
    numeralValue hexDigits (List.replicate k '0' ++ s) = numeralValue hexDigits s := by
  induction k with
  | zero => rfl
  | succ k ih => rw [← ih]; simp only [List.replicate_succ]; rfl

/-- The hexadecimal digits of a number: their value, and no leading zero but in `0` itself. -/
theorem upper_toDigits (n : Nat) :
    IsNumeral hexDigits ((Nat.toDigits 16 n).map Char.toUpper) ∧
    numeralValue hexDigits ((Nat.toDigits 16 n).map Char.toUpper) = n ∧
    (((Nat.toDigits 16 n).map Char.toUpper).head? = some '0' → n = 0) := by
  induction n using Nat.strongRecOn with
  | ind n ih =>
    rw [Nat.toDigits_eq_if (by decide)]
    split
    next h =>
      obtain ⟨h1, h2, h3⟩ := upper_digitChar ⟨n, h⟩
      refine ⟨⟨by simp, by simpa using h1⟩, by simpa [numeralValue] using h2, fun h0 => ?_⟩
      simpa using h3 (by simpa using h0)
    next h =>
      obtain ⟨⟨i0, i1⟩, i2, i3⟩ := ih (n / 16) (by omega)
      obtain ⟨h1, h2, _⟩ := upper_digitChar ⟨n % 16, by omega⟩
      rw [List.map_append]
      refine ⟨⟨by simp, ?_⟩, ?_, ?_⟩
      · simp only [List.mem_append, List.map_cons, List.map_nil, List.mem_singleton]
        rintro c (hc | rfl)
        · exact i1 c hc
        · exact h1
      · rw [List.map_cons, List.map_nil, numeralValue_append_singleton, i2, h2]
        show 16 * (n / 16) + n % 16 = n
        omega
      · rw [List.head?_append_of_ne_nil _ i0]
        intro h0
        have := i3 h0
        omega

/-- The hexadecimal column of a listing line (49_assembler.md R178). -/
theorem hexPadded_isPaddedHex {width : Nat} (h : 0 < width) (n : Nat) : IsPaddedHex width n (hexPadded width n) := by
  obtain ⟨⟨h0, h1⟩, h2, h3⟩ := upper_toDigits n
  unfold hexPadded List.leftpad
  refine ⟨⟨by simp, ?_⟩, ?_, ?_, ?_⟩
  · simp only [List.mem_append, List.mem_replicate]
    rintro c (⟨_, rfl⟩ | hc)
    · decide
    · exact h1 c hc
  · rw [numeralValue_zeros, h2]
  · simp; omega
  · intro hl he
    have hw : width - ((Nat.toDigits 16 n).map Char.toUpper).length = 0 := by simp at hl ⊢; omega
    rw [hw] at he hl
    have hn := h3 (by simpa using he)
    subst hn
    simp at hl
    omega

end Sys2Proof.Machine
end

