-- ==== Sys2Proof/Laws/State.lean ====
section
/-! SUPPORT. What each field reads as after each named update of the state: one lemma per field per update. -/

namespace Sys2Proof.Machine

@[simp] theorem State.setPc_cfg (s : State) (v : Word) : (s.setPc v).cfg = s.cfg := rfl
@[simp] theorem State.setPc_pc (s : State) (v : Word) : (s.setPc v).pc = v := rfl
@[simp] theorem State.setPc_ir (s : State) (v : Word) : (s.setPc v).ir = s.ir := rfl
@[simp] theorem State.setPc_rs (s : State) (v : Word) : (s.setPc v).rs = s.rs := rfl
@[simp] theorem State.setPc_rsp (s : State) (v : Word) : (s.setPc v).rsp = s.rsp := rfl
@[simp] theorem State.setPc_ds (s : State) (v : Word) : (s.setPc v).ds = s.ds := rfl
@[simp] theorem State.setPc_sp (s : State) (v : Word) : (s.setPc v).sp = s.sp := rfl
@[simp] theorem State.setPc_dar (s : State) (v : Word) : (s.setPc v).dar = s.dar := rfl
@[simp] theorem State.setPc_mem (s : State) (v : Word) : (s.setPc v).mem = s.mem := rfl
@[simp] theorem State.setPc_input (s : State) (v : Word) : (s.setPc v).input = s.input := rfl
@[simp] theorem State.setPc_output (s : State) (v : Word) : (s.setPc v).output = s.output := rfl
@[simp] theorem State.setPc_tick (s : State) (v : Word) : (s.setPc v).tick = s.tick := rfl
@[simp] theorem State.setPc_icount (s : State) (v : Word) : (s.setPc v).icount = s.icount := rfl
@[simp] theorem State.setPc_status (s : State) (v : Word) : (s.setPc v).status = s.status := rfl

@[simp] theorem State.setIr_cfg (s : State) (v : Word) : (s.setIr v).cfg = s.cfg := rfl
@[simp] theorem State.setIr_pc (s : State) (v : Word) : (s.setIr v).pc = s.pc := rfl
@[simp] theorem State.setIr_ir (s : State) (v : Word) : (s.setIr v).ir = v := rfl
@[simp] theorem State.setIr_rs (s : State) (v : Word) : (s.setIr v).rs = s.rs := rfl
@[simp] theorem State.setIr_rsp (s : State) (v : Word) : (s.setIr v).rsp = s.rsp := rfl
@[simp] theorem State.setIr_ds (s : State) (v : Word) : (s.setIr v).ds = s.ds := rfl
@[simp] theorem State.setIr_sp (s : State) (v : Word) : (s.setIr v).sp = s.sp := rfl
@[simp] theorem State.setIr_dar (s : State) (v : Word) : (s.setIr v).dar = s.dar := rfl
@[simp] theorem State.setIr_mem (s : State) (v : Word) : (s.setIr v).mem = s.mem := rfl
@[simp] theorem State.setIr_input (s : State) (v : Word) : (s.setIr v).input = s.input := rfl
@[simp] theorem State.setIr_output (s : State) (v : Word) : (s.setIr v).output = s.output := rfl
@[simp] theorem State.setIr_tick (s : State) (v : Word) : (s.setIr v).tick = s.tick := rfl
@[simp] theorem State.setIr_icount (s : State) (v : Word) : (s.setIr v).icount = s.icount := rfl
@[simp] theorem State.setIr_status (s : State) (v : Word) : (s.setIr v).status = s.status := rfl

@[simp] theorem State.setRs_cfg (s : State) (v : Cells) : (s.setRs v).cfg = s.cfg := rfl
@[simp] theorem State.setRs_pc (s : State) (v : Cells) : (s.setRs v).pc = s.pc := rfl
@[simp] theorem State.setRs_ir (s : State) (v : Cells) : (s.setRs v).ir = s.ir := rfl
@[simp] theorem State.setRs_rs (s : State) (v : Cells) : (s.setRs v).rs = v := rfl
@[simp] theorem State.setRs_rsp (s : State) (v : Cells) : (s.setRs v).rsp = s.rsp := rfl
@[simp] theorem State.setRs_ds (s : State) (v : Cells) : (s.setRs v).ds = s.ds := rfl
@[simp] theorem State.setRs_sp (s : State) (v : Cells) : (s.setRs v).sp = s.sp := rfl
@[simp] theorem State.setRs_dar (s : State) (v : Cells) : (s.setRs v).dar = s.dar := rfl
@[simp] theorem State.setRs_mem (s : State) (v : Cells) : (s.setRs v).mem = s.mem := rfl
@[simp] theorem State.setRs_input (s : State) (v : Cells) : (s.setRs v).input = s.input := rfl
@[simp] theorem State.setRs_output (s : State) (v : Cells) : (s.setRs v).output = s.output := rfl
@[simp] theorem State.setRs_tick (s : State) (v : Cells) : (s.setRs v).tick = s.tick := rfl
@[simp] theorem State.setRs_icount (s : State) (v : Cells) : (s.setRs v).icount = s.icount := rfl
@[simp] theorem State.setRs_status (s : State) (v : Cells) : (s.setRs v).status = s.status := rfl

@[simp] theorem State.setRsp_cfg (s : State) (v : Int) : (s.setRsp v).cfg = s.cfg := rfl
@[simp] theorem State.setRsp_pc (s : State) (v : Int) : (s.setRsp v).pc = s.pc := rfl
@[simp] theorem State.setRsp_ir (s : State) (v : Int) : (s.setRsp v).ir = s.ir := rfl
@[simp] theorem State.setRsp_rs (s : State) (v : Int) : (s.setRsp v).rs = s.rs := rfl
@[simp] theorem State.setRsp_rsp (s : State) (v : Int) : (s.setRsp v).rsp = v := rfl
@[simp] theorem State.setRsp_ds (s : State) (v : Int) : (s.setRsp v).ds = s.ds := rfl
@[simp] theorem State.setRsp_sp (s : State) (v : Int) : (s.setRsp v).sp = s.sp := rfl
@[simp] theorem State.setRsp_dar (s : State) (v : Int) : (s.setRsp v).dar = s.dar := rfl
@[simp] theorem State.setRsp_mem (s : State) (v : Int) : (s.setRsp v).mem = s.mem := rfl
@[simp] theorem State.setRsp_input (s : State) (v : Int) : (s.setRsp v).input = s.input := rfl
@[simp] theorem State.setRsp_output (s : State) (v : Int) : (s.setRsp v).output = s.output := rfl
@[simp] theorem State.setRsp_tick (s : State) (v : Int) : (s.setRsp v).tick = s.tick := rfl
@[simp] theorem State.setRsp_icount (s : State) (v : Int) : (s.setRsp v).icount = s.icount := rfl
@[simp] theorem State.setRsp_status (s : State) (v : Int) : (s.setRsp v).status = s.status := rfl

@[simp] theorem State.setDs_cfg (s : State) (v : Cells) : (s.setDs v).cfg = s.cfg := rfl
@[simp] theorem State.setDs_pc (s : State) (v : Cells) : (s.setDs v).pc = s.pc := rfl
@[simp] theorem State.setDs_ir (s : State) (v : Cells) : (s.setDs v).ir = s.ir := rfl
@[simp] theorem State.setDs_rs (s : State) (v : Cells) : (s.setDs v).rs = s.rs := rfl
@[simp] theorem State.setDs_rsp (s : State) (v : Cells) : (s.setDs v).rsp = s.rsp := rfl
@[simp] theorem State.setDs_ds (s : State) (v : Cells) : (s.setDs v).ds = v := rfl
@[simp] theorem State.setDs_sp (s : State) (v : Cells) : (s.setDs v).sp = s.sp := rfl
@[simp] theorem State.setDs_dar (s : State) (v : Cells) : (s.setDs v).dar = s.dar := rfl
@[simp] theorem State.setDs_mem (s : State) (v : Cells) : (s.setDs v).mem = s.mem := rfl
@[simp] theorem State.setDs_input (s : State) (v : Cells) : (s.setDs v).input = s.input := rfl
@[simp] theorem State.setDs_output (s : State) (v : Cells) : (s.setDs v).output = s.output := rfl
@[simp] theorem State.setDs_tick (s : State) (v : Cells) : (s.setDs v).tick = s.tick := rfl
@[simp] theorem State.setDs_icount (s : State) (v : Cells) : (s.setDs v).icount = s.icount := rfl
@[simp] theorem State.setDs_status (s : State) (v : Cells) : (s.setDs v).status = s.status := rfl

@[simp] theorem State.setSp_cfg (s : State) (v : Int) : (s.setSp v).cfg = s.cfg := rfl
@[simp] theorem State.setSp_pc (s : State) (v : Int) : (s.setSp v).pc = s.pc := rfl
@[simp] theorem State.setSp_ir (s : State) (v : Int) : (s.setSp v).ir = s.ir := rfl
@[simp] theorem State.setSp_rs (s : State) (v : Int) : (s.setSp v).rs = s.rs := rfl
@[simp] theorem State.setSp_rsp (s : State) (v : Int) : (s.setSp v).rsp = s.rsp := rfl
@[simp] theorem State.setSp_ds (s : State) (v : Int) : (s.setSp v).ds = s.ds := rfl
@[simp] theorem State.setSp_sp (s : State) (v : Int) : (s.setSp v).sp = v := rfl
@[simp] theorem State.setSp_dar (s : State) (v : Int) : (s.setSp v).dar = s.dar := rfl
@[simp] theorem State.setSp_mem (s : State) (v : Int) : (s.setSp v).mem = s.mem := rfl
@[simp] theorem State.setSp_input (s : State) (v : Int) : (s.setSp v).input = s.input := rfl
@[simp] theorem State.setSp_output (s : State) (v : Int) : (s.setSp v).output = s.output := rfl
@[simp] theorem State.setSp_tick (s : State) (v : Int) : (s.setSp v).tick = s.tick := rfl
@[simp] theorem State.setSp_icount (s : State) (v : Int) : (s.setSp v).icount = s.icount := rfl
@[simp] theorem State.setSp_status (s : State) (v : Int) : (s.setSp v).status = s.status := rfl

@[simp] theorem State.setDar_cfg (s : State) (v : Word) : (s.setDar v).cfg = s.cfg := rfl
@[simp] theorem State.setDar_pc (s : State) (v : Word) : (s.setDar v).pc = s.pc := rfl
@[simp] theorem State.setDar_ir (s : State) (v : Word) : (s.setDar v).ir = s.ir := rfl
@[simp] theorem State.setDar_rs (s : State) (v : Word) : (s.setDar v).rs = s.rs := rfl
@[simp] theorem State.setDar_rsp (s : State) (v : Word) : (s.setDar v).rsp = s.rsp := rfl
@[simp] theorem State.setDar_ds (s : State) (v : Word) : (s.setDar v).ds = s.ds := rfl
@[simp] theorem State.setDar_sp (s : State) (v : Word) : (s.setDar v).sp = s.sp := rfl
@[simp] theorem State.setDar_dar (s : State) (v : Word) : (s.setDar v).dar = v := rfl
@[simp] theorem State.setDar_mem (s : State) (v : Word) : (s.setDar v).mem = s.mem := rfl
@[simp] theorem State.setDar_input (s : State) (v : Word) : (s.setDar v).input = s.input := rfl
@[simp] theorem State.setDar_output (s : State) (v : Word) : (s.setDar v).output = s.output := rfl
@[simp] theorem State.setDar_tick (s : State) (v : Word) : (s.setDar v).tick = s.tick := rfl
@[simp] theorem State.setDar_icount (s : State) (v : Word) : (s.setDar v).icount = s.icount := rfl
@[simp] theorem State.setDar_status (s : State) (v : Word) : (s.setDar v).status = s.status := rfl

@[simp] theorem State.setMem_cfg (s : State) (v : Cells) : (s.setMem v).cfg = s.cfg := rfl
@[simp] theorem State.setMem_pc (s : State) (v : Cells) : (s.setMem v).pc = s.pc := rfl
@[simp] theorem State.setMem_ir (s : State) (v : Cells) : (s.setMem v).ir = s.ir := rfl
@[simp] theorem State.setMem_rs (s : State) (v : Cells) : (s.setMem v).rs = s.rs := rfl
@[simp] theorem State.setMem_rsp (s : State) (v : Cells) : (s.setMem v).rsp = s.rsp := rfl
@[simp] theorem State.setMem_ds (s : State) (v : Cells) : (s.setMem v).ds = s.ds := rfl
@[simp] theorem State.setMem_sp (s : State) (v : Cells) : (s.setMem v).sp = s.sp := rfl
@[simp] theorem State.setMem_dar (s : State) (v : Cells) : (s.setMem v).dar = s.dar := rfl
@[simp] theorem State.setMem_mem (s : State) (v : Cells) : (s.setMem v).mem = v := rfl
@[simp] theorem State.setMem_input (s : State) (v : Cells) : (s.setMem v).input = s.input := rfl
@[simp] theorem State.setMem_output (s : State) (v : Cells) : (s.setMem v).output = s.output := rfl
@[simp] theorem State.setMem_tick (s : State) (v : Cells) : (s.setMem v).tick = s.tick := rfl
@[simp] theorem State.setMem_icount (s : State) (v : Cells) : (s.setMem v).icount = s.icount := rfl
@[simp] theorem State.setMem_status (s : State) (v : Cells) : (s.setMem v).status = s.status := rfl

@[simp] theorem State.setInput_cfg (s : State) (v : List Word) : (s.setInput v).cfg = s.cfg := rfl
@[simp] theorem State.setInput_pc (s : State) (v : List Word) : (s.setInput v).pc = s.pc := rfl
@[simp] theorem State.setInput_ir (s : State) (v : List Word) : (s.setInput v).ir = s.ir := rfl
@[simp] theorem State.setInput_rs (s : State) (v : List Word) : (s.setInput v).rs = s.rs := rfl
@[simp] theorem State.setInput_rsp (s : State) (v : List Word) : (s.setInput v).rsp = s.rsp := rfl
@[simp] theorem State.setInput_ds (s : State) (v : List Word) : (s.setInput v).ds = s.ds := rfl
@[simp] theorem State.setInput_sp (s : State) (v : List Word) : (s.setInput v).sp = s.sp := rfl
@[simp] theorem State.setInput_dar (s : State) (v : List Word) : (s.setInput v).dar = s.dar := rfl
@[simp] theorem State.setInput_mem (s : State) (v : List Word) : (s.setInput v).mem = s.mem := rfl
@[simp] theorem State.setInput_input (s : State) (v : List Word) : (s.setInput v).input = v := rfl
@[simp] theorem State.setInput_output (s : State) (v : List Word) : (s.setInput v).output = s.output := rfl
@[simp] theorem State.setInput_tick (s : State) (v : List Word) : (s.setInput v).tick = s.tick := rfl
@[simp] theorem State.setInput_icount (s : State) (v : List Word) : (s.setInput v).icount = s.icount := rfl
@[simp] theorem State.setInput_status (s : State) (v : List Word) : (s.setInput v).status = s.status := rfl

@[simp] theorem State.setOutput_cfg (s : State) (v : List Word) : (s.setOutput v).cfg = s.cfg := rfl
@[simp] theorem State.setOutput_pc (s : State) (v : List Word) : (s.setOutput v).pc = s.pc := rfl
@[simp] theorem State.setOutput_ir (s : State) (v : List Word) : (s.setOutput v).ir = s.ir := rfl
@[simp] theorem State.setOutput_rs (s : State) (v : List Word) : (s.setOutput v).rs = s.rs := rfl
@[simp] theorem State.setOutput_rsp (s : State) (v : List Word) : (s.setOutput v).rsp = s.rsp := rfl
@[simp] theorem State.setOutput_ds (s : State) (v : List Word) : (s.setOutput v).ds = s.ds := rfl
@[simp] theorem State.setOutput_sp (s : State) (v : List Word) : (s.setOutput v).sp = s.sp := rfl
@[simp] theorem State.setOutput_dar (s : State) (v : List Word) : (s.setOutput v).dar = s.dar := rfl
@[simp] theorem State.setOutput_mem (s : State) (v : List Word) : (s.setOutput v).mem = s.mem := rfl
@[simp] theorem State.setOutput_input (s : State) (v : List Word) : (s.setOutput v).input = s.input := rfl
@[simp] theorem State.setOutput_output (s : State) (v : List Word) : (s.setOutput v).output = v := rfl
@[simp] theorem State.setOutput_tick (s : State) (v : List Word) : (s.setOutput v).tick = s.tick := rfl
@[simp] theorem State.setOutput_icount (s : State) (v : List Word) : (s.setOutput v).icount = s.icount := rfl
@[simp] theorem State.setOutput_status (s : State) (v : List Word) : (s.setOutput v).status = s.status := rfl

@[simp] theorem State.setStatus_cfg (s : State) (v : Status) : (s.setStatus v).cfg = s.cfg := rfl
@[simp] theorem State.setStatus_pc (s : State) (v : Status) : (s.setStatus v).pc = s.pc := rfl
@[simp] theorem State.setStatus_ir (s : State) (v : Status) : (s.setStatus v).ir = s.ir := rfl
@[simp] theorem State.setStatus_rs (s : State) (v : Status) : (s.setStatus v).rs = s.rs := rfl
@[simp] theorem State.setStatus_rsp (s : State) (v : Status) : (s.setStatus v).rsp = s.rsp := rfl
@[simp] theorem State.setStatus_ds (s : State) (v : Status) : (s.setStatus v).ds = s.ds := rfl
@[simp] theorem State.setStatus_sp (s : State) (v : Status) : (s.setStatus v).sp = s.sp := rfl
@[simp] theorem State.setStatus_dar (s : State) (v : Status) : (s.setStatus v).dar = s.dar := rfl
@[simp] theorem State.setStatus_mem (s : State) (v : Status) : (s.setStatus v).mem = s.mem := rfl
@[simp] theorem State.setStatus_input (s : State) (v : Status) : (s.setStatus v).input = s.input := rfl
@[simp] theorem State.setStatus_output (s : State) (v : Status) : (s.setStatus v).output = s.output := rfl
@[simp] theorem State.setStatus_tick (s : State) (v : Status) : (s.setStatus v).tick = s.tick := rfl
@[simp] theorem State.setStatus_icount (s : State) (v : Status) : (s.setStatus v).icount = s.icount := rfl
@[simp] theorem State.setStatus_status (s : State) (v : Status) : (s.setStatus v).status = v := rfl

@[simp] theorem State.addTicks_cfg (s : State) (n : Nat) : (s.addTicks n).cfg = s.cfg := rfl
@[simp] theorem State.addTicks_pc (s : State) (n : Nat) : (s.addTicks n).pc = s.pc := rfl
@[simp] theorem State.addTicks_ir (s : State) (n : Nat) : (s.addTicks n).ir = s.ir := rfl
@[simp] theorem State.addTicks_rs (s : State) (n : Nat) : (s.addTicks n).rs = s.rs := rfl
@[simp] theorem State.addTicks_rsp (s : State) (n : Nat) : (s.addTicks n).rsp = s.rsp := rfl
@[simp] theorem State.addTicks_ds (s : State) (n : Nat) : (s.addTicks n).ds = s.ds := rfl
@[simp] theorem State.addTicks_sp (s : State) (n : Nat) : (s.addTicks n).sp = s.sp := rfl
@[simp] theorem State.addTicks_dar (s : State) (n : Nat) : (s.addTicks n).dar = s.dar := rfl
@[simp] theorem State.addTicks_mem (s : State) (n : Nat) : (s.addTicks n).mem = s.mem := rfl
@[simp] theorem State.addTicks_input (s : State) (n : Nat) : (s.addTicks n).input = s.input := rfl
@[simp] theorem State.addTicks_output (s : State) (n : Nat) : (s.addTicks n).output = s.output := rfl
@[simp] theorem State.addTicks_tick (s : State) (n : Nat) : (s.addTicks n).tick = s.tick + n := rfl
@[simp] theorem State.addTicks_icount (s : State) (n : Nat) : (s.addTicks n).icount = s.icount := rfl
@[simp] theorem State.addTicks_status (s : State) (n : Nat) : (s.addTicks n).status = s.status := rfl

@[simp] theorem State.countInstr_cfg (s : State) : s.countInstr.cfg = s.cfg := rfl
@[simp] theorem State.countInstr_pc (s : State) : s.countInstr.pc = s.pc := rfl
@[simp] theorem State.countInstr_ir (s : State) : s.countInstr.ir = s.ir := rfl
@[simp] theorem State.countInstr_rs (s : State) : s.countInstr.rs = s.rs := rfl
@[simp] theorem State.countInstr_rsp (s : State) : s.countInstr.rsp = s.rsp := rfl
@[simp] theorem State.countInstr_ds (s : State) : s.countInstr.ds = s.ds := rfl
@[simp] theorem State.countInstr_sp (s : State) : s.countInstr.sp = s.sp := rfl
@[simp] theorem State.countInstr_dar (s : State) : s.countInstr.dar = s.dar := rfl
@[simp] theorem State.countInstr_mem (s : State) : s.countInstr.mem = s.mem := rfl
@[simp] theorem State.countInstr_input (s : State) : s.countInstr.input = s.input := rfl
@[simp] theorem State.countInstr_output (s : State) : s.countInstr.output = s.output := rfl
@[simp] theorem State.countInstr_tick (s : State) : s.countInstr.tick = s.tick := rfl
@[simp] theorem State.countInstr_icount (s : State) : s.countInstr.icount = s.icount + 1 := rfl
@[simp] theorem State.countInstr_status (s : State) : s.countInstr.status = s.status := rfl

@[simp] theorem State.raise_cfg (s : State) (c : Condition) : (s.raise c).cfg = s.cfg := rfl
@[simp] theorem State.raise_pc (s : State) (c : Condition) : (s.raise c).pc = s.pc := rfl
@[simp] theorem State.raise_ir (s : State) (c : Condition) : (s.raise c).ir = s.ir := rfl
@[simp] theorem State.raise_rs (s : State) (c : Condition) : (s.raise c).rs = s.rs := rfl
@[simp] theorem State.raise_rsp (s : State) (c : Condition) : (s.raise c).rsp = s.rsp := rfl
@[simp] theorem State.raise_ds (s : State) (c : Condition) : (s.raise c).ds = s.ds := rfl
@[simp] theorem State.raise_sp (s : State) (c : Condition) : (s.raise c).sp = s.sp := rfl
@[simp] theorem State.raise_dar (s : State) (c : Condition) : (s.raise c).dar = s.dar := rfl
@[simp] theorem State.raise_mem (s : State) (c : Condition) : (s.raise c).mem = s.mem := rfl
@[simp] theorem State.raise_input (s : State) (c : Condition) : (s.raise c).input = s.input := rfl
@[simp] theorem State.raise_output (s : State) (c : Condition) : (s.raise c).output = s.output := rfl
@[simp] theorem State.raise_tick (s : State) (c : Condition) : (s.raise c).tick = s.tick := rfl
@[simp] theorem State.raise_icount (s : State) (c : Condition) : (s.raise c).icount = s.icount := rfl
@[simp] theorem State.raise_status (s : State) (c : Condition) : (s.raise c).status = c.status := rfl

@[simp] theorem State.fault_cfg (s : State) (k : FaultKind) : (s.fault k).cfg = s.cfg := rfl
@[simp] theorem State.fault_pc (s : State) (k : FaultKind) : (s.fault k).pc = s.pc := rfl
@[simp] theorem State.fault_ir (s : State) (k : FaultKind) : (s.fault k).ir = s.ir := rfl
@[simp] theorem State.fault_rs (s : State) (k : FaultKind) : (s.fault k).rs = s.rs := rfl
@[simp] theorem State.fault_rsp (s : State) (k : FaultKind) : (s.fault k).rsp = s.rsp := rfl
@[simp] theorem State.fault_ds (s : State) (k : FaultKind) : (s.fault k).ds = s.ds := rfl
@[simp] theorem State.fault_sp (s : State) (k : FaultKind) : (s.fault k).sp = s.sp := rfl
@[simp] theorem State.fault_dar (s : State) (k : FaultKind) : (s.fault k).dar = s.dar := rfl
@[simp] theorem State.fault_mem (s : State) (k : FaultKind) : (s.fault k).mem = s.mem := rfl
@[simp] theorem State.fault_input (s : State) (k : FaultKind) : (s.fault k).input = s.input := rfl
@[simp] theorem State.fault_output (s : State) (k : FaultKind) : (s.fault k).output = s.output := rfl
@[simp] theorem State.fault_tick (s : State) (k : FaultKind) : (s.fault k).tick = s.tick := rfl
@[simp] theorem State.fault_icount (s : State) (k : FaultKind) : (s.fault k).icount = s.icount := rfl
@[simp] theorem State.fault_status (s : State) (k : FaultKind) : (s.fault k).status = .faulted k := rfl

@[simp] theorem State.dsWrite_cfg (s : State) (i : Int) (v : Word) : (s.dsWrite i v).cfg = s.cfg := rfl
@[simp] theorem State.dsWrite_pc (s : State) (i : Int) (v : Word) : (s.dsWrite i v).pc = s.pc := rfl
@[simp] theorem State.dsWrite_ir (s : State) (i : Int) (v : Word) : (s.dsWrite i v).ir = s.ir := rfl
@[simp] theorem State.dsWrite_rs (s : State) (i : Int) (v : Word) : (s.dsWrite i v).rs = s.rs := rfl
@[simp] theorem State.dsWrite_rsp (s : State) (i : Int) (v : Word) : (s.dsWrite i v).rsp = s.rsp := rfl
@[simp] theorem State.dsWrite_ds (s : State) (i : Int) (v : Word) : (s.dsWrite i v).ds = s.ds.write i.toNat v := rfl
@[simp] theorem State.dsWrite_sp (s : State) (i : Int) (v : Word) : (s.dsWrite i v).sp = s.sp := rfl
@[simp] theorem State.dsWrite_dar (s : State) (i : Int) (v : Word) : (s.dsWrite i v).dar = s.dar := rfl
@[simp] theorem State.dsWrite_mem (s : State) (i : Int) (v : Word) : (s.dsWrite i v).mem = s.mem := rfl
@[simp] theorem State.dsWrite_input (s : State) (i : Int) (v : Word) : (s.dsWrite i v).input = s.input := rfl
@[simp] theorem State.dsWrite_output (s : State) (i : Int) (v : Word) : (s.dsWrite i v).output = s.output := rfl
@[simp] theorem State.dsWrite_tick (s : State) (i : Int) (v : Word) : (s.dsWrite i v).tick = s.tick := rfl
@[simp] theorem State.dsWrite_icount (s : State) (i : Int) (v : Word) : (s.dsWrite i v).icount = s.icount := rfl
@[simp] theorem State.dsWrite_status (s : State) (i : Int) (v : Word) : (s.dsWrite i v).status = s.status := rfl

@[simp] theorem State.rsWrite_cfg (s : State) (i : Int) (v : Word) : (s.rsWrite i v).cfg = s.cfg := rfl
@[simp] theorem State.rsWrite_pc (s : State) (i : Int) (v : Word) : (s.rsWrite i v).pc = s.pc := rfl
@[simp] theorem State.rsWrite_ir (s : State) (i : Int) (v : Word) : (s.rsWrite i v).ir = s.ir := rfl
@[simp] theorem State.rsWrite_rs (s : State) (i : Int) (v : Word) : (s.rsWrite i v).rs = s.rs.write i.toNat v := rfl
@[simp] theorem State.rsWrite_rsp (s : State) (i : Int) (v : Word) : (s.rsWrite i v).rsp = s.rsp := rfl
@[simp] theorem State.rsWrite_ds (s : State) (i : Int) (v : Word) : (s.rsWrite i v).ds = s.ds := rfl
@[simp] theorem State.rsWrite_sp (s : State) (i : Int) (v : Word) : (s.rsWrite i v).sp = s.sp := rfl
@[simp] theorem State.rsWrite_dar (s : State) (i : Int) (v : Word) : (s.rsWrite i v).dar = s.dar := rfl
@[simp] theorem State.rsWrite_mem (s : State) (i : Int) (v : Word) : (s.rsWrite i v).mem = s.mem := rfl
@[simp] theorem State.rsWrite_input (s : State) (i : Int) (v : Word) : (s.rsWrite i v).input = s.input := rfl
@[simp] theorem State.rsWrite_output (s : State) (i : Int) (v : Word) : (s.rsWrite i v).output = s.output := rfl
@[simp] theorem State.rsWrite_tick (s : State) (i : Int) (v : Word) : (s.rsWrite i v).tick = s.tick := rfl
@[simp] theorem State.rsWrite_icount (s : State) (i : Int) (v : Word) : (s.rsWrite i v).icount = s.icount := rfl
@[simp] theorem State.rsWrite_status (s : State) (i : Int) (v : Word) : (s.rsWrite i v).status = s.status := rfl

end Sys2Proof.Machine
end

