-- ==== Sys2Proof/Laws/Ops.lean ====
section
/-! SUPPORT. One lemma for each shared operation, saying what it can do. -/

namespace Sys2Proof.Machine

theorem State.inMem_iff {s : State} {a : Word} :
    s.inMem a = true ↔ 0 ≤ a.toInt ∧ a.toInt < (s.cfg.memSize : Int) := by
  simp [State.inMem]

/-- Raising any condition stops the machine. -/
@[simp] theorem Condition.status_ne_running (c : Condition) : c.status ≠ .running := by cases c <;> simp [Condition.status]

/-- A word whose signed value is not negative has the same value as a natural number. -/
theorem toNat_of_toInt_nonneg {a : Word} (h : 0 ≤ a.toInt) : (a.toNat : Int) = a.toInt := by
  have hc := BitVec.toInt_eq_toNat_cond a
  have hlt := a.isLt
  split at hc <;> omega

/-- The cell of an address in memory is below MEM_SIZE. -/
theorem State.toNat_lt_of_inMem {s : State} {a : Word} (h : s.inMem a = true) : a.toNat < s.cfg.memSize := by
  have h := State.inMem_iff.1 h
  have := toNat_of_toInt_nonneg h.1
  omega

theorem State.dsFull_iff {s : State} : s.dsFull = true ↔ s.sp + 1 > (s.cfg.dstackCap : Int) - 1 := by
  simp [State.dsFull]

theorem State.rsFull_iff {s : State} : s.rsFull = true ↔ s.rsp + 1 > (s.cfg.rstackCap : Int) - 1 := by
  simp [State.rsFull]

@[simp] theorem State.withOperand_none (s : State) (k : Word → State) :
    s.withOperand none k = s.fault (.fetchOutOfRange s.pc) := rfl

@[simp] theorem State.withOperand_some (s : State) (w : Word) (k : Word → State) : s.withOperand (some w) k = k w := rfl

theorem State.tos_of_nonneg {s : State} (h : 0 ≤ s.sp) : s.tos = some (s.dsRead s.sp) := by simp [State.tos, h]

theorem State.tos_of_neg {s : State} (h : s.sp < 0) : s.tos = none := by simp [State.tos, h]

theorem State.tos_eq_some {s : State} {v : Word} : s.tos = some v ↔ 0 ≤ s.sp ∧ s.dsRead s.sp = v := by
  unfold State.tos; split <;> simp_all

theorem State.sos_of_pos {s : State} (h : 1 ≤ s.sp) : s.sos = some (s.dsRead (s.sp - 1)) := by simp [State.sos, h]

theorem State.sos_of_lt {s : State} (h : s.sp < 1) : s.sos = none := by simp [State.sos, h]

theorem State.sos_eq_some {s : State} {v : Word} : s.sos = some v ↔ 1 ≤ s.sp ∧ s.dsRead (s.sp - 1) = v := by
  unfold State.sos; split <;> simp_all

/-- The zero flag is whether TOS is zero (10_state.md R27). -/
theorem State.zeroFlag_of_nonneg {s : State} (h : 0 ≤ s.sp) : s.zeroFlag = some (decide (s.dsRead s.sp = 0#32)) := by
  simp [State.zeroFlag, State.tos_of_nonneg h]

theorem State.zeroFlag_of_neg {s : State} (h : s.sp < 0) : s.zeroFlag = none := by
  simp [State.zeroFlag, State.tos_of_neg h]

/-- What a data read that succeeds did: popped the input device, or read a cell that is no device address. -/
theorem State.memRead_ok {s t : State} {a v : Word} (h : s.memRead a = .ok (v, t)) :
    (a = inAddr ∧ ∃ rest, s.input = v :: rest ∧ t = s.setInput rest) ∨
    (a ≠ inAddr ∧ a ≠ outAddr ∧ s.inMem a = true ∧ v = s.mem.read a.toNat ∧ t = s) := by
  unfold State.memRead State.inputRead at h
  split at h
  next ha =>
    split at h
    · cases h
    next c rest hin => cases h; exact .inl ⟨ha, rest, hin, rfl⟩
  next ha =>
    split at h
    · cases h
    next hb =>
      split at h
      next hm => cases h; exact .inr ⟨ha, hb, hm, rfl, rfl⟩
      · cases h

/-- Why a data read raises a condition (20_memory.md R54, R57). -/
theorem State.memRead_error {s : State} {a : Word} {c : Condition} (h : s.memRead a = .error c) :
    (a = inAddr ∧ s.input = [] ∧ c = .inputExhausted) ∨
    (a = outAddr ∧ c = .fault (.accessDirection .read a)) ∨
    (a ≠ inAddr ∧ a ≠ outAddr ∧ s.inMem a = false ∧ c = .fault (.dataAddressOutOfRange .read a)) := by
  unfold State.memRead State.inputRead at h
  split at h
  next ha =>
    split at h
    next hin => cases h; exact .inl ⟨ha, hin, rfl⟩
    · cases h
  next ha =>
    split at h
    next hb => cases h; exact .inr (.inl ⟨hb, rfl⟩)
    next hb =>
      split at h
      · cases h
      next hm => cases h; exact .inr (.inr ⟨ha, hb, by simpa using hm, rfl⟩)

/-- What a data write that succeeds did: appended to the output device, or wrote a cell that is no device address. -/
theorem State.memWrite_ok {s t : State} {a v : Word} (h : s.memWrite a v = .ok t) :
    (a = outAddr ∧ t = s.setOutput (s.output ++ [v])) ∨
    (a ≠ inAddr ∧ a ≠ outAddr ∧ s.inMem a = true ∧ t = s.setMem (s.mem.write a.toNat v)) := by
  unfold State.memWrite at h
  split at h
  next ha => cases h; exact .inl ⟨ha, rfl⟩
  next ha =>
    split at h
    · cases h
    next hb =>
      split at h
      next hm => cases h; exact .inr ⟨hb, ha, hm, rfl⟩
      · cases h

/-- Why a data write raises a condition (20_memory.md R55, R59). -/
theorem State.memWrite_error {s : State} {a v : Word} {c : Condition} (h : s.memWrite a v = .error c) :
    (a = inAddr ∧ c = .fault (.accessDirection .write a)) ∨
    (a ≠ inAddr ∧ a ≠ outAddr ∧ s.inMem a = false ∧ c = .fault (.dataAddressOutOfRange .write a)) := by
  unfold State.memWrite at h
  split at h
  · cases h
  next ha =>
    split at h
    next hb => cases h; exact .inl ⟨hb, rfl⟩
    next hb =>
      split at h
      · cases h
      next hm => cases h; exact .inr ⟨hb, ha, by simpa using hm, rfl⟩

/-- An address of a cell that data accesses reach is at least 2. -/
theorem two_le_toNat {a : Word} (h0 : a ≠ inAddr) (h1 : a ≠ outAddr) : 2 ≤ a.toNat := by
  by_contra h
  have h : a.toNat = 0 ∨ a.toNat = 1 := by omega
  rcases h with h | h
  · exact h0 (BitVec.eq_of_toNat_eq h)
  · exact h1 (BitVec.eq_of_toNat_eq h)

end Sys2Proof.Machine
end

