-- ==== Sys2Proof/Laws/Exec.lean ====
section
/-! SUPPORT. What each meaning can do: one inversion lemma per meaning, each case naming the state it leaves. -/

namespace Sys2Proof.Machine

theorem execHlt_cases {s t : State} (h : execHlt s = .next t) : t = s.raise .halt := by cases h; rfl

theorem execJmp_cases {o : Option Word} {s t : State} (h : execJmp o s = .next t) :
    (o = none ∧ t = s.fault (.fetchOutOfRange s.pc)) ∨ ∃ a, o = some a ∧ t = (s.setPc a).addTicks 1 := by
  cases o <;> cases h
  · exact .inl ⟨rfl, rfl⟩
  · exact .inr ⟨_, rfl, rfl⟩

theorem execJz_cases {o : Option Word} {s t : State} (h : execJz o s = .next t) :
    (s.sp < 0 ∧ t = s.fault .dStackUnderflow) ∨
    (0 ≤ s.sp ∧ s.dsRead s.sp = 0#32 ∧ o = none ∧ t = s.fault (.fetchOutOfRange s.pc)) ∨
    (0 ≤ s.sp ∧ s.dsRead s.sp = 0#32 ∧ ∃ a, o = some a ∧ t = ((s.setPc a).setSp (s.sp - 1)).addTicks 1) ∨
    (0 ≤ s.sp ∧ s.dsRead s.sp ≠ 0#32 ∧ t = (s.advancePc.setSp (s.sp - 1)).addTicks 1) := by
  rcases lt_or_ge s.sp 0 with hs | hs
  · simp only [execJz, State.zeroFlag_of_neg hs, Host.Outcome.next.injEq] at h
    exact .inl ⟨hs, h.symm⟩
  · by_cases hz : s.dsRead s.sp = 0#32
    · cases o <;> simp [execJz, State.zeroFlag_of_nonneg hs, hz] at h <;> simp [hs, hz, h]
    · simp [execJz, State.zeroFlag_of_nonneg hs, hz] at h
      exact .inr (.inr (.inr ⟨hs, hz, h.symm⟩))

theorem execCall_cases {o : Option Word} {s t : State} (h : execCall o s = .next t) :
    (s.rsFull = true ∧ t = s.fault .rStackOverflow) ∨
    (s.rsFull = false ∧ o = none ∧ t =
      (((s.setRsp (s.rsp + 1)).addTicks 1).rsWrite (s.rsp + 1) (nextPc s.pc)).fault (.fetchOutOfRange s.pc)) ∨
    (s.rsFull = false ∧ ∃ a, o = some a ∧ t =
      ((((s.setRsp (s.rsp + 1)).addTicks 1).rsWrite (s.rsp + 1) (nextPc s.pc)).setPc a).addTicks 1) := by
  cases hf : s.rsFull <;> cases o <;> simp [execCall, hf] at h <;> simp [h]

theorem execRet_cases {s t : State} (h : execRet s = .next t) :
    (s.rsp < 0 ∧ t = s.fault .rStackUnderflow) ∨
    (0 ≤ s.rsp ∧ t = ((s.setPc (s.rsRead s.rsp)).setRsp (s.rsp - 1)).addTicks 1) := by
  rcases lt_or_ge s.rsp 0 with hs | hs
  · simp only [execRet, hs, if_true, Host.Outcome.next.injEq] at h; exact .inl ⟨hs, h.symm⟩
  · simp only [execRet, hs.not_gt, if_false, Host.Outcome.next.injEq] at h; exact .inr ⟨hs, h.symm⟩

theorem execGetVal_cases {s t : State} (h : execGetVal s = .next t) :
    (s.sp < 0 ∧ t = s.fault .dStackUnderflow) ∨
    (0 ≤ s.sp ∧ ∃ c, ((s.setDar (s.dsRead s.sp)).addTicks 1).memRead (s.dsRead s.sp) = .error c ∧
      t = ((s.setDar (s.dsRead s.sp)).addTicks 1).raise c) ∨
    (0 ≤ s.sp ∧ ∃ v u, ((s.setDar (s.dsRead s.sp)).addTicks 1).memRead (s.dsRead s.sp) = .ok (v, u) ∧
      t = u.dsWrite u.sp v) := by
  rcases lt_or_ge s.sp 0 with hs | hs
  · simp only [execGetVal, State.tos_of_neg hs, Host.Outcome.next.injEq] at h
    exact .inl ⟨hs, h.symm⟩
  · simp only [execGetVal, State.tos_of_nonneg hs, Host.Outcome.next.injEq, State.addTicks_dar, State.setDar_dar] at h
    split at h
    next c hc => exact .inr (.inl ⟨hs, c, hc, h.symm⟩)
    next v u hu => exact .inr (.inr ⟨hs, v, u, hu, h.symm⟩)

theorem execStoreVal_cases {s t : State} (h : execStoreVal s = .next t) :
    (s.sp < 1 ∧ t = s.fault .dStackUnderflow) ∨
    (1 ≤ s.sp ∧ ∃ c, ((s.setDar (s.dsRead (s.sp - 1))).addTicks 1).memWrite (s.dsRead (s.sp - 1)) (s.dsRead s.sp) = .error c ∧
      t = ((s.setDar (s.dsRead (s.sp - 1))).addTicks 1).raise c) ∨
    (1 ≤ s.sp ∧ ∃ u, ((s.setDar (s.dsRead (s.sp - 1))).addTicks 1).memWrite (s.dsRead (s.sp - 1)) (s.dsRead s.sp) = .ok u ∧
      t = u.setSp (u.sp - 2)) := by
  rcases lt_or_ge s.sp 1 with hs | hs
  · simp only [execStoreVal, State.sos_of_lt hs, Host.Outcome.next.injEq] at h
    exact .inl ⟨hs, h.symm⟩
  · simp only [execStoreVal, State.sos_of_pos hs, Host.Outcome.next.injEq, State.addTicks_dar, State.setDar_dar] at h
    split at h
    next c hc => exact .inr (.inl ⟨hs, c, hc, h.symm⟩)
    next u hu => exact .inr (.inr ⟨hs, u, hu, h.symm⟩)

theorem execPeek_cases {o : Option Word} {s t : State} (h : execPeek o s = .next t) :
    (s.dsFull = true ∧ t = s.fault .dStackOverflow) ∨
    (s.dsFull = false ∧ o = none ∧ t = ((s.setSp (s.sp + 1)).addTicks 1).fault (.fetchOutOfRange s.pc)) ∨
    (s.dsFull = false ∧ ∃ k, o = some k ∧ (k.toInt < 0 ∨ s.rsp < k.toInt) ∧
      t = ((s.setSp (s.sp + 1)).addTicks 1).fault (.rStackIndex k)) ∨
    (s.dsFull = false ∧ ∃ k, o = some k ∧ 0 ≤ k.toInt ∧ k.toInt ≤ s.rsp ∧
      t = (((s.setSp (s.sp + 1)).addTicks 1).dsWrite (s.sp + 1) (s.rsRead (s.rsp - k.toInt))).advancePc) := by
  cases hf : s.dsFull <;> cases o <;> simp [execPeek, hf] at h
  · simp [h]
  next k =>
    by_cases hk : k.toInt < 0 ∨ s.rsp < k.toInt
    · rw [if_pos hk] at h
      exact .inr (.inr (.inl ⟨rfl, k, rfl, hk, h.symm⟩))
    · rw [if_neg hk] at h
      exact .inr (.inr (.inr ⟨rfl, k, rfl, by omega, by omega, h.symm⟩))
  · simp [h]
  · simp [h]

theorem execPush_cases {o : Option Word} {s t : State} (h : execPush o s = .next t) :
    (s.dsFull = true ∧ t = s.fault .dStackOverflow) ∨
    (s.dsFull = false ∧ o = none ∧ t = ((s.setSp (s.sp + 1)).addTicks 1).fault (.fetchOutOfRange s.pc)) ∨
    (s.dsFull = false ∧ ∃ v, o = some v ∧
      t = (((s.setSp (s.sp + 1)).addTicks 1).dsWrite (s.sp + 1) v).advancePc) := by
  cases hf : s.dsFull <;> cases o <;> simp [execPush, hf] at h <;> simp [h]

theorem execDrop_cases {s t : State} (h : execDrop s = .next t) :
    (s.sp < 0 ∧ t = s.fault .dStackUnderflow) ∨
    (0 ≤ s.sp ∧ t = (s.setSp (s.sp - 1)).addTicks s.cfg.dropTicks) := by
  rcases lt_or_ge s.sp 0 with hs | hs
  · simp only [execDrop, hs, if_true, Host.Outcome.next.injEq] at h; exact .inl ⟨hs, h.symm⟩
  · simp only [execDrop, hs.not_gt, if_false, Host.Outcome.next.injEq] at h; exact .inr ⟨hs, h.symm⟩

theorem execPushr_cases {o : Option Word} {s t : State} (h : execPushr o s = .next t) :
    (s.rsFull = true ∧ t = s.fault .rStackOverflow) ∨
    (s.rsFull = false ∧ o = none ∧ t = ((s.setRsp (s.rsp + 1)).addTicks 1).fault (.fetchOutOfRange s.pc)) ∨
    (s.rsFull = false ∧ ∃ v, o = some v ∧
      t = (((s.setRsp (s.rsp + 1)).addTicks 1).rsWrite (s.rsp + 1) v).advancePc) := by
  cases hf : s.rsFull <;> cases o <;> simp [execPushr, hf] at h <;> simp [h]

theorem execDropr_cases {s t : State} (h : execDropr s = .next t) :
    (s.rsp < 0 ∧ t = s.fault .rStackUnderflow) ∨
    (0 ≤ s.rsp ∧ t = (s.setRsp (s.rsp - 1)).addTicks s.cfg.dropTicks) := by
  rcases lt_or_ge s.rsp 0 with hs | hs
  · simp only [execDropr, hs, if_true, Host.Outcome.next.injEq] at h; exact .inl ⟨hs, h.symm⟩
  · simp only [execDropr, hs.not_gt, if_false, Host.Outcome.next.injEq] at h; exact .inr ⟨hs, h.symm⟩

/-- The common micro-sequence of the five arithmetic instructions (43_alu.md R151). -/
theorem execAlu_cases {op : AluOp} {s t : State} (h : execAlu op s = .next t) :
    (s.sp < 1 ∧ t = s.fault .dStackUnderflow) ∨
    (1 ≤ s.sp ∧ ∃ c, alu s.cfg op (s.dsRead (s.sp - 1)) (s.dsRead s.sp) = .error c ∧ t = s.raise c) ∨
    (1 ≤ s.sp ∧ ∃ r, alu s.cfg op (s.dsRead (s.sp - 1)) (s.dsRead s.sp) = .ok r ∧
      t = ((s.addTicks 1).dsWrite (s.sp - 1) (toWord (wrap r))).setSp (s.sp - 1)) := by
  rcases lt_or_ge s.sp 1 with hs | hs
  · simp only [execAlu, State.sos_of_lt hs, Host.Outcome.next.injEq] at h
    exact .inl ⟨hs, h.symm⟩
  · simp only [execAlu, State.sos_of_pos hs, Host.Outcome.next.injEq] at h
    split at h
    next c hc => exact .inr (.inl ⟨hs, c, hc, h.symm⟩)
    next r hr => exact .inr (.inr ⟨hs, r, hr, h.symm⟩)

theorem exec_add (s : State) : exec .add s = execAlu .add s := rfl

theorem exec_sub (s : State) : exec .sub s = execAlu .sub s := rfl

theorem exec_mod (s : State) : exec .mod s = execAlu .mod s := rfl

theorem exec_eq (s : State) : exec .eq s = execAlu .eq s := rfl

theorem exec_or (s : State) : exec .or s = execAlu .or s := rfl

@[simp] theorem modNonZero_zero (f : Int → Int → Int) (l : Word) : modNonZero f l 0#32 = none := if_pos rfl

theorem modNonZero_of_ne (f : Int → Int → Int) (l : Word) {r : Word} (h : r ≠ 0#32) :
    modNonZero f l r = some (f l.toInt r.toInt) := if_neg h

/-- The constraint R6 puts on `OR_FN` holds of every reading. -/
theorem orValue_eq_zero_iff (f : OrFn) (l r : Word) : orValue f l r = 0#32 ↔ l = 0#32 ∧ r = 0#32 := by
  cases f with
  | bitwise => exact BitVec.or_eq_zero_iff
  | logical => by_cases h : l = 0#32 ∧ r = 0#32 <;> simp [orValue, h]
  | firstNonZero => by_cases h : l = 0#32 <;> simp [orValue, h]
  | own =>
    by_cases h : l = 0#32 ∧ r = 0#32
    · simp [orValue, orConstrained, h]
    · by_cases h0 : Config.orOwn l r = 0#32 <;> simp [orValue, orConstrained, h, h0]

/-- The ALU's only condition is DivideByZero, of MOD where `MOD_FN` faults (43_alu.md R154, 60_exceptions.md R216). -/
theorem alu_error {cfg : Config} {op : AluOp} {l r : Word} {c : Condition} (h : alu cfg op l r = .error c) :
    op = .mod ∧ modValue cfg.modFn l r = none ∧ c = .fault .divideByZero := by
  cases op <;> simp only [alu, reduceCtorEq] at h
  split at h
  next hr => cases h; exact ⟨rfl, hr, rfl⟩
  · cases h

end Sys2Proof.Machine
end

