-- ==== Sys2Proof/Laws/PerInstr.lean ====
section
/-! SUPPORT. Facts stated for every instruction as syntax, one lemma per constructor. -/

namespace Sys2Proof.Laws.EncodedLength

/-- A well-formed instruction encodes to as many Words as its mnemonic has (30_encoding.md R81, R84). -/
def Statement (i : Instr) : Prop := i.wf = true → ∀ opc : OpcMap, (encode opc i).length = i.mnemonic.words

theorem hlt : Statement .hlt := fun _ _ => rfl
theorem jmp (target : Option Word) : Statement (.jmp target) := by
  cases target <;> intro h _
  · cases h
  · rfl
theorem jz (target : Option Word) : Statement (.jz target) := by
  cases target <;> intro h _
  · cases h
  · rfl
theorem call (target : Option Word) : Statement (.call target) := by
  cases target <;> intro h _
  · cases h
  · rfl
theorem ret : Statement .ret := fun _ _ => rfl
theorem getVal : Statement .getVal := fun _ _ => rfl
theorem storeVal : Statement .storeVal := fun _ _ => rfl
theorem peek (k : Option Word) : Statement (.peek k) := by
  cases k <;> intro h _
  · cases h
  · rfl
theorem push (imm : Option Word) : Statement (.push imm) := by
  cases imm <;> intro h _
  · cases h
  · rfl
theorem drop : Statement .drop := fun _ _ => rfl
theorem pushr (imm : Option Word) : Statement (.pushr imm) := by
  cases imm <;> intro h _
  · cases h
  · rfl
theorem dropr : Statement .dropr := fun _ _ => rfl
theorem add : Statement .add := fun _ _ => rfl
theorem sub : Statement .sub := fun _ _ => rfl
theorem mod : Statement .mod := fun _ _ => rfl
theorem eq : Statement .eq := fun _ _ => rfl
theorem or : Statement .or := fun _ _ => rfl

end Sys2Proof.Laws.EncodedLength
end

