-- ==== Sys2Proof/Laws/Step.lean ====
section
/-! SUPPORT. What one step can do, said once. -/

namespace Sys2Proof.Machine

@[simp] theorem State.advancePc_eq (s : State) : s.advancePc = s.setPc (nextPc s.pc) := rfl

/-- What fetch and decode answer (40_control_flow.md R105). -/
theorem fetchDecode_cases (s : State) :
    (s.memFetch s.pc = none ∧ fetchDecode s = .over (.next (s.fault (.fetchOutOfRange s.pc)))) ∨
    (∃ w, s.memFetch s.pc = some w ∧ mnemonicOf s.cfg.opc w = none ∧
      fetchDecode s = .over (.next ((s.fetched w).fault (.illegalOpcode w)))) ∨
    (∃ w m, s.memFetch s.pc = some w ∧ mnemonicOf s.cfg.opc w = some m ∧
      fetchDecode s = .run (Instr.ofMnemonic m ((s.fetched w).memFetch (s.fetched w).pc)) (s.fetched w)) := by
  cases hw : s.memFetch s.pc with
  | none => exact .inl ⟨rfl, by simp [fetchDecode, hw]⟩
  | some w =>
    rcases decode_cases s.cfg.opc w ((s.fetched w).memFetch (s.fetched w).pc) with ⟨hm, hd⟩ | ⟨m, hm, hd⟩
    · exact .inr (.inl ⟨w, rfl, hm, by simp [fetchDecode, hw, hd]⟩)
    · exact .inr (.inr ⟨w, m, rfl, hm, by simp [fetchDecode, hw, hd]⟩)

/-- Everything one step of a machine can do when it answers a next state: the tick limit, a fetch outside memory, an
illegal opcode, an instruction that raised a condition, or a completed instruction. -/
theorem step_cases {s t : State} (h : step s = .next t) :
    s.status = .running ∧
    ((s.budgetSpent = true ∧ t = s.raise .tickLimit) ∨
     (s.budgetSpent = false ∧ s.memFetch s.pc = none ∧ t = s.fault (.fetchOutOfRange s.pc)) ∨
     (∃ w, s.budgetSpent = false ∧ s.memFetch s.pc = some w ∧ mnemonicOf s.cfg.opc w = none ∧
       t = (s.fetched w).fault (.illegalOpcode w)) ∨
     (∃ w m u, s.budgetSpent = false ∧ s.memFetch s.pc = some w ∧ mnemonicOf s.cfg.opc w = some m ∧
       exec (Instr.ofMnemonic m ((s.fetched w).memFetch (s.fetched w).pc)) (s.fetched w) = .next u ∧
       ((u.status ≠ .running ∧ t = u) ∨ (u.status = .running ∧ t = (u.addTicks 1).countInstr)))) := by
  unfold step beginStep at h
  by_cases hr : s.status = .running
  · refine ⟨hr, ?_⟩
    cases hb : s.budgetSpent with
    | true => simp [hr, hb] at h; exact .inl ⟨rfl, h.symm⟩
    | false =>
      simp only [hr, hb, if_true, Bool.false_eq_true, if_false] at h
      rcases fetchDecode_cases s with ⟨hf, he⟩ | ⟨w, hf, hm, he⟩ | ⟨w, m, hf, hm, he⟩ <;> rw [he] at h
      · cases h; exact .inr (.inl ⟨rfl, hf, rfl⟩)
      · cases h; exact .inr (.inr (.inl ⟨w, rfl, hf, hm, rfl⟩))
      · refine .inr (.inr (.inr ⟨w, m, ?_⟩))
        simp only [] at h
        generalize exec _ _ = r at h ⊢
        cases r with
        | next u =>
          refine ⟨u, rfl, hf, hm, rfl, ?_⟩
          simp only [endStep] at h
          split at h <;> cases h
          next hu => exact .inr ⟨hu, rfl⟩
          next hu => exact .inl ⟨hu, rfl⟩
        | fault f => cases h
        | refused f => cases h
  · simp [hr] at h

/-- Every meaning answers a next state: a condition an instruction raises is a next state too. -/
theorem exec_answers (i : Instr) (s : State) : ∃ t, exec i s = .next t := by
  cases i <;> exact ⟨_, rfl⟩

end Sys2Proof.Machine
end

