-- ==== Sys2Proof/Tests/Slice0.lean ====
section
/-! SUPPORT. The model's own tests, their expected values from 95_test_vectors.md (which computed them from the rules) or
written out from 30_encoding.md, and for every statement with hypotheses a named witness that they can be met. -/

namespace Sys2Proof.Tests

open Sys2Proof.Machine

/-! ### Helpers -/

/-- A machine with memory `mem`, operand stack `ds`, return stack `rs` (bottom first) and both capacities 4. -/
def mk (mem ds rs : List Word) : State :=
  { State.reset with
    cfg := { defaultConfig mem.length with dstackCap := 4, rstackCap := 4 }
    mem := Cells.ofList mem
    ds := Cells.ofList ds
    sp := (ds.length : Int) - 1
    rs := Cells.ofList rs
    rsp := (rs.length : Int) - 1 }

/-- The state an outcome leaves, `s` where there is none. -/
def stateOf (r : Result) (s : State) : State :=
  match r with
  | .next t => t
  | .fault _ => s
  | .refused _ => s

/-- The state after one step. -/
def stepped (s : State) : State := stateOf (step s) s

/-- The state after one execute phase. -/
def execed (i : Instr) (s : State) : State := stateOf (exec i s) s

/-- STATUS, PC, SP, RSP, TICK and ICOUNT after one step. -/
def view (s : State) : Status × Int × Int × Int × Nat × Nat :=
  ((stepped s).status, (stepped s).pc.toInt, (stepped s).sp, (stepped s).rsp, (stepped s).tick, (stepped s).icount)

/-- STATUS and the value on top of the operand stack after one step. -/
def topAfter (s : State) : Status × Int := ((stepped s).status, ((stepped s).dsRead (stepped s).sp).toInt)

/-- The top of the operand stack after the ALU instruction whose code is `code` on `left` and `right` (V3). -/
def alu3 (code : Word) (left right : Int) : Status × Int :=
  topAfter (mk [code] [BitVec.ofInt 32 left, BitVec.ofInt 32 right] [])

/-! ### Well-formedness: an ill-formed term for the check, in each constructor it concerns -/

theorem test_wf_refuses_missing_operand :
    (Instr.jmp none).wf = false ∧ (Instr.jz none).wf = false ∧ (Instr.call none).wf = false ∧
    (Instr.peek none).wf = false ∧ (Instr.push none).wf = false ∧ (Instr.pushr none).wf = false := by decide

theorem test_wf_accepts : (Instr.push (some 0#32)).wf = true ∧ Instr.add.wf = true := by decide

/-! ### Decoding: words written out from 30_encoding.md R80, R81, R85 (default OPC) -/

theorem test_decode_control :
    decodeWords defaultOpc [0x00000000#32, 0x00000007#32] = .ok (.hlt, [7#32]) ∧
    decodeWords defaultOpc [0x00000001#32, 0xFFFFFFFF#32] = .ok (.jmp (some 0xFFFFFFFF#32), []) ∧
    decodeWords defaultOpc [0x00000002#32, 0x00000006#32] = .ok (.jz (some 6#32), []) ∧
    decodeWords defaultOpc [0x00000003#32, 0x00000000#32] = .ok (.call (some 0#32), []) ∧
    decodeWords defaultOpc [0x00000004#32] = .ok (.ret, []) := by decide

theorem test_decode_memory :
    decodeWords defaultOpc [0x00000005#32, 0x00000009#32] = .ok (.getVal, [9#32]) ∧
    decodeWords defaultOpc [0x00000006#32] = .ok (.storeVal, []) := by decide

theorem test_decode_stack :
    decodeWords defaultOpc [0x00000007#32, 0x00000001#32] = .ok (.peek (some 1#32), []) ∧
    decodeWords defaultOpc [0x00000008#32, 0x80000000#32] = .ok (.push (some 0x80000000#32), []) ∧
    decodeWords defaultOpc [0x00000009#32] = .ok (.drop, []) ∧
    decodeWords defaultOpc [0x0000000A#32, 0x00000041#32] = .ok (.pushr (some 65#32), []) ∧
    decodeWords defaultOpc [0x0000000B#32] = .ok (.dropr, []) := by decide

theorem test_decode_alu :
    decodeWords defaultOpc [0x0000000C#32] = .ok (.add, []) ∧
    decodeWords defaultOpc [0x0000000D#32] = .ok (.sub, []) ∧
    decodeWords defaultOpc [0x0000000E#32] = .ok (.mod, []) ∧
    decodeWords defaultOpc [0x0000000F#32] = .ok (.eq, []) ∧
    decodeWords defaultOpc [0x00000010#32] = .ok (.or, []) := by decide

/-- R87: words that are no opcode, among them one whose low byte is one. -/
theorem test_decode_illegal :
    decodeWords defaultOpc [17#32] = .error (.illegalOpcode 17#32) ∧
    decodeWords defaultOpc [0xFFFFFFFF#32] = .error (.illegalOpcode 0xFFFFFFFF#32) ∧
    decodeWords defaultOpc [0x00000108#32] = .error (.illegalOpcode 0x108#32) ∧
    decodeWords defaultOpc [] = .error .noWord := by decide

theorem test_decode_table_word :
    decodeTableWord 32 8 = some (.push (some 0#32)) ∧ decodeTableWord 64 0x4100000008 = some (.push (some 65#32)) ∧
    decodeTableWord 32 16 = some .or ∧ decodeTableWord 32 17 = none := by decide

/-- PUSH and ADD are what the first step after reset runs; ADD then finds an empty stack. -/
theorem test_fetch_word :
    view (State.reset.withFetchWord 64 0x500000008) = (.running, 2, 0, -1, 3, 1) ∧
    view (State.reset.withFetchWord 32 12) = (.faulted .dStackUnderflow, 1, -1, -1, 1, 0) := by decide

/-- V1: bytes of Words, least significant first. -/
theorem test_image_codec :
    encodeImage [0x12345678#32, 0xFFFFFFFE#32] = [0x78#8, 0x56#8, 0x34#8, 0x12#8, 0xFE#8, 0xFF#8, 0xFF#8, 0xFF#8] ∧
    decodeImage [0x00#8, 0x00#8, 0x00#8, 0x80#8] = some [0x80000000#32] ∧ decodeImage [0#8, 0#8, 0#8, 0#8, 0#8] = none ∧
    decodeBytes defaultOpc [8#8, 0#8, 0#8, 0#8, 5#8, 0#8, 0#8, 0#8] = .ok (.push (some 5#32), []) := by decide

/-- V1: the image `[0]` loads and its first step raises FetchOutOfRange(0) with TICK 0; so does reset. -/
theorem test_empty_image : view State.reset = (.faulted (.fetchOutOfRange 0#32), 0, -1, -1, 0, 0) := by decide

/-- R60: image word 0 is the entry address, image word `a + 1` is cell `a`; V2.13: an entry out of range. -/
theorem test_load :
    (State.loadDefault [9#32, 8#32, 77#32] []).map (fun s => (s.pc, s.mem.read 0, s.mem.read 1, s.cfg.memSize)) =
      some (9#32, 8#32, 77#32, 2) ∧
    (State.loadDefault [5#32, 0#32] []).map view = some (.faulted (.fetchOutOfRange 5#32), 5, -1, -1, 0, 0) := by decide

/-! ### One step of each instruction (V2 to V5): STATUS, PC, SP, RSP, TICK, ICOUNT -/

theorem test_hlt : view (mk [0#32] [] []) = (.halted, 1, -1, -1, 1, 0) := by decide

theorem test_jmp : view (mk [1#32, -1#32] [] []) = (.running, -1, -1, -1, 3, 1) := by decide

theorem test_jz_taken : view (mk [2#32, 6#32] [5#32, 0#32] []) = (.running, 6, 0, -1, 3, 1) := by decide

/-- A negative value is not 0; the operand cell need not exist (D21). -/
theorem test_jz_not_taken :
    view (mk [2#32, 6#32] [-3#32] []) = (.running, 2, -1, -1, 3, 1) ∧
    view (mk [2#32] [1#32] []) = (.running, 2, -1, -1, 3, 1) := by decide

theorem test_call :
    view (mk [3#32, 0#32] [] []) = (.running, 0, -1, 0, 4, 1) ∧
    (stepped (mk [3#32, 0#32] [] [])).rsRead 0 = 2#32 := by decide

theorem test_call_full :
    view (mk [3#32, 0#32] [] [1#32, 2#32, 3#32, 4#32]) = (.faulted .rStackOverflow, 1, -1, 3, 1, 0) := by decide

theorem test_ret : view (mk [4#32] [] [13#32]) = (.running, 13, -1, -1, 3, 1) := by decide

theorem test_ret_empty : view (mk [4#32] [] []) = (.faulted .rStackUnderflow, 1, -1, -1, 1, 0) := by decide

/-- V4.1, V4.3, V4.5: a cell, and the head of the input queue, 0 among them. -/
theorem test_get_val :
    topAfter (mk [5#32, 0#32, 42#32] [2#32] []) = (.running, 42) ∧
    topAfter { mk [5#32] [0#32] [] with input := [72#32, 0#32] } = (.running, 72) ∧
    (stepped { mk [5#32] [0#32] [] with input := [72#32, 0#32] }).input = [0#32] := by decide

/-- V4.4, V4.7, V4.9, V4.10. -/
theorem test_get_val_conditions :
    view (mk [5#32] [0#32] []) = (.inputExhausted, 1, 0, -1, 2, 0) ∧
    (stepped (mk [5#32] [1#32] [])).status = .faulted (.accessDirection .read 1#32) ∧
    (stepped (mk [5#32] [100#32] [])).status = .faulted (.dataAddressOutOfRange .read 100#32) ∧
    (stepped (mk [5#32] [-1#32] [])).status = .faulted (.dataAddressOutOfRange .read (-1#32)) := by decide

/-- V4.2, V4.6: a cell, and the output device, which leaves cell 1 alone. -/
theorem test_store_val :
    view (mk [6#32, 0#32, 0#32] [2#32, 7#32] []) = (.running, 1, -1, -1, 3, 1) ∧
    (stepped (mk [6#32, 0#32, 0#32] [2#32, 7#32] [])).mem.read 2 = 7#32 ∧
    (stepped (mk [6#32, 9#32] [1#32, -7#32] [])).output = [-7#32] ∧
    (stepped (mk [6#32, 9#32] [1#32, -7#32] [])).mem.read 1 = 9#32 := by decide

/-- V4.8, V4.11. -/
theorem test_store_val_faults :
    view (mk [6#32] [0#32, 9#32] []) = (.faulted (.accessDirection .write 0#32), 1, 1, -1, 2, 0) ∧
    view (mk [6#32] [1#32] []) = (.faulted .dStackUnderflow, 1, 0, -1, 1, 0) := by decide

/-- V5.5, V5.6. -/
theorem test_peek :
    topAfter (mk [7#32, 1#32] [] [5#32, 6#32]) = (.running, 5) ∧
    topAfter (mk [7#32, 0#32] [] [5#32, 6#32]) = (.running, 6) ∧
    view (mk [7#32, 1#32] [] [5#32, 6#32]) = (.running, 2, 0, 1, 3, 1) := by decide

/-- V5.7, V5.8, V5.9. -/
theorem test_peek_index :
    (stepped (mk [7#32, 2#32] [] [5#32, 6#32])).status = .faulted (.rStackIndex 2#32) ∧
    (stepped (mk [7#32, -1#32] [] [5#32])).status = .faulted (.rStackIndex (-1#32)) ∧
    view (mk [7#32, 0#32] [] []) = (.faulted (.rStackIndex 0#32), 1, 0, -1, 2, 0) := by decide

theorem test_push :
    view (mk [8#32, 5#32] [] []) = (.running, 2, 0, -1, 3, 1) ∧ topAfter (mk [8#32, 5#32] [] []) = (.running, 5) := by
  decide

/-- V2.14 (the operand word is missing) and V5.4 (the stack is full). -/
theorem test_push_faults :
    view (mk [8#32] [] []) = (.faulted (.fetchOutOfRange 1#32), 1, 0, -1, 2, 0) ∧
    view (mk [8#32, 3#32] [1#32, 2#32, 3#32, 4#32] []) = (.faulted .dStackOverflow, 1, 3, -1, 1, 0) := by decide

theorem test_drop :
    view (mk [9#32] [5#32] []) = (.running, 1, -1, -1, 3, 1) ∧
    view (mk [9#32] [] []) = (.faulted .dStackUnderflow, 1, -1, -1, 1, 0) := by decide

theorem test_pushr :
    view (mk [10#32, 65#32] [] []) = (.running, 2, -1, 0, 3, 1) ∧
    (stepped (mk [10#32, 65#32] [] [])).rsRead 0 = 65#32 := by decide

theorem test_dropr :
    view (mk [11#32] [] [5#32]) = (.running, 1, -1, -1, 3, 1) ∧
    view (mk [11#32] [] []) = (.faulted .rStackUnderflow, 1, -1, -1, 1, 0) := by decide

/-- V3. -/
theorem test_add :
    alu3 12#32 65 1 = (.running, 66) ∧ alu3 12#32 2147483647 1 = (.running, -2147483648) ∧
    alu3 12#32 (-2147483648) (-1) = (.running, 2147483647) ∧ alu3 12#32 (-2147483648) (-2147483648) = (.running, 0) ∧
    alu3 12#32 2147483647 2147483647 = (.running, -2) := by decide

/-- V3. -/
theorem test_sub :
    alu3 13#32 3 1 = (.running, 2) ∧ alu3 13#32 1 3 = (.running, -2) ∧
    alu3 13#32 (-2147483648) 1 = (.running, 2147483647) ∧ alu3 13#32 2147483647 (-1) = (.running, -2147483648) ∧
    alu3 13#32 (-2147483648) 2147483647 = (.running, 1) ∧ alu3 13#32 0 (-2147483648) = (.running, -2147483648) := by
  decide

/-- V3. -/
theorem test_mod :
    alu3 14#32 10 3 = (.running, 1) ∧ alu3 14#32 (-7) 3 = (.running, 2) ∧ alu3 14#32 7 (-3) = (.running, -2) ∧
    alu3 14#32 (-7) (-3) = (.running, -1) ∧ alu3 14#32 6 3 = (.running, 0) ∧ alu3 14#32 (-2147483648) (-1) = (.running, 0) ∧
    alu3 14#32 (-2147483648) 2147483647 = (.running, 2147483646) := by decide

/-- V3: the operands stay and no access tick is counted. -/
theorem test_mod_zero : view (mk [14#32] [5#32, 0#32] []) = (.faulted .divideByZero, 1, 1, -1, 1, 0) := by decide

/-- V3. -/
theorem test_eq :
    alu3 15#32 5 5 = (.running, 1) ∧ alu3 15#32 5 6 = (.running, 0) ∧
    alu3 15#32 (-2147483648) (-2147483648) = (.running, 1) ∧ alu3 15#32 (-1) 2147483647 = (.running, 0) := by decide

/-- V3. -/
theorem test_or :
    alu3 16#32 5 3 = (.running, 7) ∧ alu3 16#32 (-1) 0 = (.running, -1) ∧
    alu3 16#32 (-2147483648) 2147483647 = (.running, -1) ∧ alu3 16#32 (-2147483648) 0 = (.running, -2147483648) ∧
    alu3 16#32 0 0 = (.running, 0) := by decide

/-- V2.8: the budget is tested before the fetch. -/
theorem test_tick_limit :
    view { mk [0#32] [] [] with cfg := { defaultConfig 1 with tickLimit := some 0 } } =
      (.tickLimit, 0, -1, -1, 0, 0) := by decide

/-- R206: the word 99 is fetched, then refused (V2.15). -/
theorem test_illegal_opcode : view (mk [99#32] [] []) = (.faulted (.illegalOpcode 99#32), 1, -1, -1, 1, 0) := by decide

/-! ### The host side: rendering (V6), input (V7), the encoder (V8) -/

theorem test_render :
    renderOutput [72#32, 105#32] = ['H', 'i'] ∧ renderOutput [0#32] = ['0'] ∧ renderOutput [256#32] = ['2', '5', '6'] ∧
    renderOutput [-7#32, 66#32, 300#32] = ['-', '7', 'B', '3', '0', '0'] ∧
    renderOutput [255#32] = [Char.ofNat 255] ∧ renderOutput [5#32] = [Char.ofNat 5] := by decide

theorem test_input_codes : inputCodes [0x48#8, 0x69#8] = [72#32, 105#32, 0#32] ∧ inputCodes [] = [0#32] := by decide

/-- The encoder's input of V8, its numeric literal a parameter. -/
def source8 (n : Int) : Source where
  symbols := [(['x'], .data, 0), (['L', 'h'], .code, 0), (['L', 'e'], .code, 16)]
  instrs := [.op .PUSH, .text ['x'], .op .GET_VAL, .op .JZ, .text ['L', 'e'], .op .PUSH, .text ['x'], .op .PUSH,
    .text ['x'], .op .GET_VAL, .op .PUSH, .lit n, .op .SUB, .op .STORE_VAL, .op .JMP, .text ['L', 'h'], .op .HLT]
  data := [3]
  start := 0

/-- V8: the image of P2. -/
theorem test_assemble : assemble defaultOpc (source8 1) = .ok [0#32, 8#32, 17#32, 5#32, 2#32, 16#32, 8#32, 17#32, 8#32,
    17#32, 5#32, 8#32, 1#32, 13#32, 6#32, 1#32, 0#32, 0#32, 3#32] := by decide

/-- V8: the failures and the edges of the range. -/
theorem test_assemble_errors :
    assemble defaultOpc (source8 2147483648) = .error (.rangeError 2147483648) ∧
    assemble defaultOpc (source8 (-2147483649)) = .error (.rangeError (-2147483649)) ∧
    (∃ image, assemble defaultOpc (source8 2147483647) = .ok image) ∧
    assemble defaultOpc { source8 1 with symbols := [(['x'], .data, 0), (['L', 'h'], .code, 0)] } =
      .error (.undefinedSymbol ['L', 'e']) ∧
    resolve defaultOpc [] 0 (.text ['-', '5']) = .ok (-5#32) :=
  ⟨by decide, by decide, ⟨_, rfl⟩, by decide, by decide⟩

/-- R1, R178: the names the statements use are the 17 opcodes' names, each once, and those the encoder prints. -/
theorem test_opcode_names :
    opcodeNames.map Prod.fst = Mnemonic.all ∧ opcodeNames.map Prod.snd = Mnemonic.all.map mnemonicName ∧
    opcodeNames[6]?.map Prod.snd = some "STORE_VAL".toList := by decide

/-- D34: what a numeric string is and denotes. -/
theorem test_parse_numeral :
    parseNumeral ['-', '0', '5'] = some (-5) ∧ parseNumeral ['1', '9'] = some 19 ∧ parseNumeral ['-'] = none ∧
    parseNumeral [] = none ∧ parseNumeral ['5', 'a'] = none ∧ parseNumeral ['+', '5'] = none := by decide

/-- V8: lines of the listing. -/
theorem test_listing_lines :
    listingLine .pattern 0 0#32 "Number-value".toList = "00 - 00000000 - Number-value".toList ∧
    listingLine .pattern 2 17#32 (entryLabel (.text ['x'])) = "02 - 00000011 - Address: x".toList ∧
    listingLine .signMagnitude 13 13#32 (entryLabel (.op .SUB)) = "0D - 0000000D - SUB".toList ∧
    listingLine .pattern 3 (-1#32) [] = "03 - FFFFFFFF - ".toList ∧
    listingLine .signMagnitude 3 (-1#32) [] = "03 - -00000001 - ".toList := by decide

/-! ### Witnesses: the hypotheses of each statement, clause by clause, at boundary values -/

/-- One machine for many clauses: operand stack one short of full, return stack one short of full, 3 cells. -/
def near : State := mk [6#32, 0#32, 0#32] [7#32, 2#32, 5#32] [1#32, 2#32, 3#32]

/-- Both stacks full. -/
def full : State := mk [8#32] [1#32, 2#32, 3#32, 4#32] [1#32, 2#32, 3#32, 4#32]

/-- Both stacks empty. -/
def empty : State := mk [0#32] [] []

theorem witness_LoadFollowsResetProcedure :
    decodeImage [0#8] = none ∧ decodeImage [] = some [] ∧
    decodeImage [0#8, 0#8, 0#8, 0#8, 8#8, 0#8, 0#8, 0#8] = some [0#32, 8#32] ∧
    ((defaultConfig 0).memSize < [8#32].length) ∧ ([8#32].length ≤ (defaultConfig 1).memSize) := by decide

theorem witness_LoadFollowsResetProcedure_cells : [8#32][0]? = some 8#32 ∧ [8#32].length ≤ 1 := by decide

theorem witness_LoadedStateIsLegal : ∃ s, State.load (defaultConfig 1) [0#32, 8#32] [] = some s := ⟨_, rfl⟩

theorem witness_ImageFileRefusals :
    [0#8, 0#8, 0#8, 0#8, 0#8].length % 4 ≠ 0 ∧ ([] : List Byte).length = 0 := by decide

theorem witness_DecodeEncodeAgree : defaultOpc.Injective ∧ (Instr.push (some 0xFFFFFFFF#32)).wf = true :=
  ⟨defaultOpc_injective, by decide⟩

theorem witness_EncodeDecodeAgree :
    decodeWords defaultOpc [8#32, 5#32, 9#32] = .ok (.push (some 5#32), [9#32]) ∧ (Instr.push (some 5#32)).wf = true := by
  decide

theorem witness_DecodeIsExactMatch :
    defaultOpc.Injective ∧ (mk [17#32] [] []).cfg.opc = defaultOpc ∧ (mk [17#32] [] []).status = .running ∧
    (mk [17#32] [] []).budgetSpent = false ∧ (mk [17#32] [] []).memFetch 0#32 = some 17#32 ∧
    ∀ m, defaultOpc.code m ≠ 17#32 :=
  ⟨defaultOpc_injective, by decide, by decide, by decide, by decide, fun m => by cases m <;> decide⟩

theorem witness_IllegalWordsUnderDefault : 17 ≤ (17#32).toNat ∧ (16#32).toNat < 17 := by decide

theorem witness_ImageCodecRoundTrip : [1#8, 2#8, 3#8, 0x80#8].length % 4 = 0 := by decide

theorem witness_ImageBytesLittleEndian : [1#32, 0x80000001#32][1]? = some 0x80000001#32 := by decide

/-- PUSH 5 (it keeps running) and HLT (it does not). -/
theorem witness_StepRunsDecodedInstruction :
    ∃ s : State, s = mk [8#32, 5#32] [] [] ∧
    s.status = .running ∧ s.budgetSpent = false ∧ s.memFetch s.pc = some 8#32 ∧
    decode s.cfg.opc 8#32 (s.memFetch (nextPc s.pc)) = .ok (.push (some 5#32)) ∧
    ∃ t, exec (.push (some 5#32)) { s with ir := 8#32, pc := nextPc s.pc, tick := s.tick + 1 } = .next t ∧
      t.status = .running :=
  ⟨_, rfl, by decide, by decide, by decide, by decide, ⟨_, rfl, by decide⟩⟩

theorem witness_StepRunsDecodedInstruction_halt :
    ∃ s : State, s = mk [0#32] [] [] ∧
    s.status = .running ∧ s.budgetSpent = false ∧ s.memFetch s.pc = some 0#32 ∧
    decode s.cfg.opc 0#32 (s.memFetch (nextPc s.pc)) = .ok .hlt ∧
    ∃ t, exec .hlt { s with ir := 0#32, pc := nextPc s.pc, tick := s.tick + 1 } = .next t ∧ t.status ≠ .running :=
  ⟨_, rfl, by decide, by decide, by decide, by decide, ⟨_, rfl, by decide⟩⟩

theorem witness_FetchAndDecodeFaults :
    (State.reset.status = .running ∧ State.reset.budgetSpent = false ∧ State.reset.inMem State.reset.pc = false) ∧
    ((mk [17#32] [] []).status = .running ∧ (mk [17#32] [] []).budgetSpent = false ∧
      (mk [17#32] [] []).inMem 0#32 = true ∧ ∀ m, (mk [17#32] [] []).cfg.opc.code m ≠ (mk [17#32] [] []).mem.read 0) :=
  ⟨by decide, by decide, by decide, by decide, fun m => by cases m <;> decide⟩

theorem witness_StepsExactlyWhileRunning :
    empty.status = .running ∧ { empty with status := .halted }.status ≠ .running := by decide

/-- A budget just spent, and one just not spent. -/
def budget (n : Nat) : State := { empty with cfg := { empty.cfg with tickLimit := some n } }

theorem witness_TickLimitExactlyBeforeFetch :
    (budget 0).status = .running ∧ step (budget 0) = .next (stepped (budget 0)) ∧
    (stepped (budget 0)).status = .tickLimit ∧ step (budget 1) = .next (stepped (budget 1)) ∧
    (stepped (budget 1)).status ≠ .tickLimit := ⟨by decide, rfl, by decide, rfl, by decide⟩

theorem witness_NextPcAddsOne : (0x7FFFFFFE#32).toInt < maxSign ∧ (0x80000000#32).toInt < maxSign := by decide

theorem witness_HltHalts :
    empty.status = .running ∧ empty.budgetSpent = false ∧ empty.cfg.opc.Injective ∧
    empty.memFetch empty.pc = some (empty.cfg.opc.code .HLT) := ⟨by decide, by decide, defaultOpc_injective, by decide⟩

/-- A JMP to -1, and one whose operand cell is missing. -/
theorem witness_JmpCompletes :
    ∃ s : State, s = mk [1#32, -1#32] [] [] ∧
    (s.status = .running ∧ s.budgetSpent = false ∧ s.memFetch s.pc = some (s.cfg.opc.code .JMP) ∧
      s.memFetch (nextPc s.pc) = some (-1#32) ∧ s.inMem (-1#32) = false ∧ (stepped s).budgetSpent = false) ∧
    ((mk [1#32] [] []).memFetch 0#32 = some ((mk [1#32] [] []).cfg.opc.code .JMP) ∧
      (mk [1#32] [] []).memFetch (nextPc 0#32) = none) := ⟨_, rfl, by decide⟩

theorem witness_JmpCompletes_opc : (mk [1#32, -1#32] [] []).cfg.opc.Injective := defaultOpc_injective

theorem witness_RetCompletes : 0 ≤ (mk [4#32] [] [13#32]).rsp := by decide

theorem witness_JzCompletes :
    (0 ≤ (mk [] [0#32] []).sp ∧ (mk [] [0#32] []).dsRead (mk [] [0#32] []).sp = 0#32) ∧
    (0 ≤ (mk [] [0x80000000#32] []).sp ∧ (mk [] [0x80000000#32] []).dsRead (mk [] [0x80000000#32] []).sp ≠ 0#32) := by
  decide

theorem witness_CallCompletes : near.Legal ∧ near.rsp < (near.cfg.rstackCap : Int) - 1 := by decide

theorem witness_RetReturnsAfterCall :
    near.Legal ∧ exec (.call (some 9#32)) near = .next (execed (.call (some 9#32)) near) ∧
    (execed (.call (some 9#32)) near).status = near.status ∧ near.status = .running ∧
    exec .ret (execed (.call (some 9#32)) near) = .next (execed .ret (execed (.call (some 9#32)) near)) :=
  ⟨by decide, rfl, by decide, by decide, rfl⟩

theorem witness_CallingConvention :
    ∃ s : State, s = mk [] [7#32, 2#32, 5#32] [1#32, 2#32] ∧
    s.Legal ∧ s.rsp + 2 < (s.cfg.rstackCap : Int) ∧ s.sp + 1 < (s.cfg.dstackCap : Int) := ⟨_, rfl, by decide⟩

theorem witness_ReturnStackFaults : empty.rsp < 0 ∧ (full.cfg.rstackCap : Int) - 1 ≤ full.rsp := by decide

theorem witness_MissingOperandFaults :
    (0 ≤ (mk [] [0#32] []).sp ∧ (mk [] [0#32] []).dsRead (mk [] [0#32] []).sp = 0#32) ∧
    near.rsp < (near.cfg.rstackCap : Int) - 1 ∧ near.sp < (near.cfg.dstackCap : Int) - 1 := by decide

/-- The first and the last cell that a data access reaches: 2 of 3 cells is both; 3 of 4 is the last. -/
theorem witness_GetValLoadsCell :
    ∃ s : State, s = mk [5#32, 0#32, 42#32, 43#32] [3#32] [] ∧
    s.Legal ∧ 0 ≤ s.sp ∧ s.dsRead s.sp = 3#32 ∧ 3#32 ≠ 0#32 ∧ 3#32 ≠ 1#32 ∧ 0 ≤ (3#32).toInt ∧
    (3#32).toInt < (s.cfg.memSize : Int) := ⟨_, rfl, by decide⟩

theorem witness_GetValLoadsCell_first :
    ∃ s : State, s = mk [5#32, 0#32, 42#32] [2#32] [] ∧
    s.Legal ∧ 0 ≤ s.sp ∧ s.dsRead s.sp = 2#32 ∧ (2#32).toInt < (s.cfg.memSize : Int) := ⟨_, rfl, by decide⟩

theorem witness_GetValPopsInput_empty :
    0 ≤ (mk [] [0#32] []).sp ∧ (mk [] [0#32] []).dsRead (mk [] [0#32] []).sp = 0#32 ∧ (mk [] [0#32] []).input = [] := by
  decide

theorem witness_GetValPopsInput :
    ∃ s : State, s = { mk [5#32] [0#32] [] with input := [0#32] } ∧
    s.Legal ∧ 0 ≤ s.sp ∧ s.dsRead s.sp = 0#32 ∧ s.input = 0#32 :: [] := ⟨_, rfl, by decide⟩

theorem witness_GetValInputExhausted :
    ∃ s : State, s = mk [5#32] [0#32] [] ∧
    0 ≤ s.sp ∧ s.dsRead s.sp = 0#32 ∧ s.input = [] := ⟨_, rfl, by decide⟩

theorem witness_StoreValWritesCell :
    near.Legal ∧ 1 ≤ near.sp ∧ near.dsRead (near.sp - 1) = 2#32 ∧ 2#32 ≠ 0#32 ∧ 2#32 ≠ 1#32 ∧ 0 ≤ (2#32).toInt ∧
    (2#32).toInt < (near.cfg.memSize : Int) := by decide

theorem witness_StoreValAppendsOutput :
    1 ≤ (mk [] [1#32, 7#32] []).sp ∧ (mk [] [1#32, 7#32] []).dsRead ((mk [] [1#32, 7#32] []).sp - 1) = 1#32 := by decide

/-- The output address, -1, and the first address past memory (MEM_SIZE 3, and MEM_SIZE 0 with address 2). -/
theorem witness_DataAccessFaults :
    (0 ≤ (mk [] [1#32] []).sp ∧ (mk [] [1#32] []).dsRead (mk [] [1#32] []).sp = 1#32) ∧
    ((-1#32).toInt < 0 ∧ -1#32 ≠ 0#32 ∧ -1#32 ≠ 1#32) ∧
    (((mk [0#32, 0#32, 0#32] [3#32] []).cfg.memSize : Int) ≤ (3#32).toInt ∧ 3#32 ≠ 0#32 ∧ 3#32 ≠ 1#32) ∧
    (1 ≤ (mk [] [0#32, 7#32] []).sp ∧ (mk [] [0#32, 7#32] []).dsRead ((mk [] [0#32, 7#32] []).sp - 1) = 0#32) ∧
    (1 ≤ (mk [] [2#32, 7#32] []).sp ∧ (mk [] [2#32, 7#32] []).dsRead ((mk [] [2#32, 7#32] []).sp - 1) = 2#32 ∧
      ((mk [] [2#32, 7#32] []).cfg.memSize : Int) ≤ (2#32).toInt) := by decide

/-- STORE_VAL at cell 2 patches cell 3, fetched next. -/
def patch : State := { mk [0#32, 0#32, 6#32, 99#32] [3#32, 12#32] [] with pc := 2#32 }

theorem witness_StoredWordIsFetchedNext :
    patch.Legal ∧ patch.cfg.opc.Injective ∧ patch.memFetch patch.pc = some (patch.cfg.opc.code .STORE_VAL) ∧
    1 ≤ patch.sp ∧ patch.dsRead (patch.sp - 1) ≠ 1#32 ∧ patch.budgetSpent = false ∧
    step patch = .next (stepped patch) ∧ (stepped patch).status = .running ∧
    (stepped patch).pc = patch.dsRead (patch.sp - 1) ∧ (stepped patch).budgetSpent = false ∧
    step (stepped patch) = .next (stepped (stepped patch)) :=
  ⟨by decide, defaultOpc_injective, by decide, by decide, by decide, by decide, rfl, by decide, by decide, by decide, rfl⟩

theorem witness_PushesComplete :
    near.Legal ∧ near.sp < (near.cfg.dstackCap : Int) - 1 ∧ near.rsp < (near.cfg.rstackCap : Int) - 1 := by decide

/-- The smallest and the largest live offset. -/
theorem witness_PeekCompletes :
    near.Legal ∧ near.sp < (near.cfg.dstackCap : Int) - 1 ∧ 0 ≤ (0#32).toInt ∧ (0#32).toInt ≤ near.rsp ∧
    0 ≤ (2#32).toInt ∧ (2#32).toInt ≤ near.rsp := by decide

/-- A full stack; the offsets -1 and RSP + 1. -/
theorem witness_PushAndPeekFaults :
    (full.cfg.dstackCap : Int) - 1 ≤ full.sp ∧
    (near.sp < (near.cfg.dstackCap : Int) - 1 ∧ (-1#32).toInt < 0 ∧ near.rsp < (3#32).toInt) := by decide

theorem witness_DropsComplete : 0 ≤ (mk [] [5#32] [5#32]).sp ∧ 0 ≤ (mk [] [5#32] [5#32]).rsp := by decide

theorem witness_OperandStackUnderflow :
    ((Instr.jz none).mnemonic = .JZ ∧ empty.sp < 0) ∧
    (Instr.or ∈ [Instr.storeVal, .add, .sub, .mod, .eq, .or] ∧ (mk [] [5#32] []).sp < 1) := by decide

/-- The bounds of the Word range and one RANGE outside them. -/
theorem witness_WrapIsTwosComplement :
    minSign - 1 < minSign ∧ maxSign < maxSign + 1 ∧ (minSign ≤ minSign ∧ minSign ≤ maxSign) ∧
    (minSign - wordRange ≤ minSign - wordRange ∧ minSign - wordRange ≤ maxSign + wordRange) := by decide

theorem witness_AddSubComplete : (mk [] [5#32, 6#32] []).Legal ∧ 1 ≤ (mk [] [5#32, 6#32] []).sp := by decide

/-- A machine with the truncated reading of MOD_FN. -/
def truncated : State := { near with cfg := { near.cfg with modFn := .truncated } }

/-- A machine with its own MOD_FN and OR_FN. -/
def ownFns : State := { near with cfg := { near.cfg with modFn := .own, orFn := .own } }

theorem witness_ModCompletes :
    (near.Legal ∧ 1 ≤ near.sp ∧ near.dsRead near.sp ≠ 0#32 ∧ near.cfg.modFn ≠ .own ∧ near.cfg.modFn = .floored) ∧
    (truncated.Legal ∧ 1 ≤ truncated.sp ∧ truncated.dsRead truncated.sp ≠ 0#32 ∧
      truncated.cfg.modFn ≠ .own ∧ truncated.cfg.modFn = .truncated) ∧
    (1 ≤ (mk [] [5#32, 0#32] []).sp ∧ (mk [] [5#32, 0#32] []).dsRead (mk [] [5#32, 0#32] []).sp = 0#32 ∧
      (mk [] [5#32, 0#32] []).cfg.modFn ≠ .own) := by decide

/-- What the implementation's own function gives is free; whichever it is, one of the last two clauses applies. -/
theorem witness_ModCompletes_own :
    (ownFns.Legal ∧ 1 ≤ ownFns.sp ∧ ownFns.cfg.modFn = .own) ∧
    ((∃ v, Config.modOwn (ownFns.dsRead (ownFns.sp - 1)) (ownFns.dsRead ownFns.sp) = some v) ∨
      Config.modOwn (ownFns.dsRead (ownFns.sp - 1)) (ownFns.dsRead ownFns.sp) = none) :=
  ⟨by decide, by cases Config.modOwn (ownFns.dsRead (ownFns.sp - 1)) (ownFns.dsRead ownFns.sp) <;> simp⟩

theorem witness_EqCompletes :
    ((mk [] [5#32, 5#32] []).Legal ∧ 1 ≤ (mk [] [5#32, 5#32] []).sp ∧
      (mk [] [5#32, 5#32] []).dsRead 0 = (mk [] [5#32, 5#32] []).dsRead 1) ∧
    (near.Legal ∧ 1 ≤ near.sp ∧ near.dsRead (near.sp - 1) ≠ near.dsRead near.sp) := by decide

/-- The three named readings, the third with a left operand that is not 0 (near) and with one that is. -/
theorem witness_OrCompletes :
    (near.Legal ∧ 1 ≤ near.sp ∧ near.cfg.orFn = .bitwise) ∧
    (∃ s : State, s = { near with cfg := { near.cfg with orFn := .logical } } ∧
      s.Legal ∧ 1 ≤ s.sp ∧ s.cfg.orFn = .logical) ∧
    (∃ s : State, s = { near with cfg := { near.cfg with orFn := .firstNonZero } } ∧
      s.Legal ∧ 1 ≤ s.sp ∧ s.cfg.orFn = .firstNonZero ∧ s.dsRead (s.sp - 1) ≠ 0#32) ∧
    (∃ s : State, s = { near with cfg := { near.cfg with orFn := .firstNonZero }, sp := 1, ds := [(1, 7#32)] } ∧
      s.Legal ∧ 1 ≤ s.sp ∧ s.cfg.orFn = .firstNonZero ∧ s.dsRead (s.sp - 1) = 0#32) ∧
    (ownFns.Legal ∧ 1 ≤ ownFns.sp ∧ ownFns.cfg.orFn = .own) :=
  ⟨by decide, ⟨_, rfl, by decide⟩, ⟨_, rfl, by decide⟩, ⟨_, rfl, by decide⟩, by decide⟩

/-- ADD meets every frame's hypotheses, and GET_VAL of a cell that of the input queue. -/
theorem witness_FrameMemoryAndDevices :
    exec .add near = .next (execed .add near) ∧ (execed .add near).isFaulted = false ∧ Instr.add ≠ .storeVal ∧
    Instr.add ≠ .getVal ∧ exec .getVal (mk [5#32, 0#32, 42#32] [2#32] []) =
      .next (execed .getVal (mk [5#32, 0#32, 42#32] [2#32] [])) ∧
    (execed .getVal (mk [5#32, 0#32, 42#32] [2#32] [])).isFaulted = false ∧
    (mk [5#32, 0#32, 42#32] [2#32] []).tos ≠ some 0#32 :=
  ⟨rfl, by decide, by decide, by decide, rfl, by decide, by decide⟩

/-- A store to cell 2 and one to the output device. -/
theorem witness_FrameStoreVal :
    ∃ s : State, s = mk [] [1#32, 7#32] [] ∧
    (exec .storeVal near = .next (execed .storeVal near) ∧ (execed .storeVal near).isFaulted = false ∧
      near.isFaulted = false ∧ near.sos = some 2#32 ∧ 2#32 ≠ 1#32) ∧
    (exec .storeVal s = .next (execed .storeVal s) ∧ (execed .storeVal s).isFaulted = false ∧
      s.isFaulted = false ∧ s.sos = some 1#32) := ⟨_, rfl, ⟨rfl, by decide, by decide, by decide, by decide⟩, rfl, by decide, by decide, by decide⟩

theorem witness_FrameInternalRegisters :
    exec .add near = .next (execed .add near) ∧ (execed .add near).isFaulted = false ∧ Instr.add ≠ .getVal ∧
    Instr.add ≠ .storeVal ∧ Instr.add.mnemonic ∉ [Mnemonic.JMP, .JZ, .CALL, .RET, .PUSH, .PUSHR, .PEEK] :=
  ⟨rfl, by decide, by decide, by decide, by decide⟩

theorem witness_FrameReturnStack :
    exec (.pushr (some 5#32)) near = .next (execed (.pushr (some 5#32)) near) ∧
    (execed (.pushr (some 5#32)) near).isFaulted = false ∧ 2 ≠ (near.rsp + 1).toNat ∧
    exec .add near = .next (execed .add near) ∧ (execed .add near).isFaulted = false ∧
    Instr.add.mnemonic ∉ [Mnemonic.CALL, .RET, .PUSHR, .DROPR] ∧ Instr.add.mnemonic ∉ [Mnemonic.CALL, .PUSHR] :=
  ⟨rfl, by decide, by decide, rfl, by decide, by decide, by decide⟩

theorem witness_FrameOperandStack :
    (exec .add near = .next (execed .add near) ∧ (execed .add near).isFaulted = false ∧
      Instr.add.mnemonic ∈ [Mnemonic.ADD, .SUB, .MOD, .EQ, .OR] ∧ 0 ≠ (near.sp - 1).toNat) ∧
    (exec (.push (some 5#32)) near = .next (execed (.push (some 5#32)) near) ∧
      (execed (.push (some 5#32)) near).isFaulted = false ∧ 2 ≠ (near.sp + 1).toNat) ∧
    (exec .getVal (mk [5#32, 0#32, 42#32] [2#32] []) = .next (execed .getVal (mk [5#32, 0#32, 42#32] [2#32] [])) ∧
      (execed .getVal (mk [5#32, 0#32, 42#32] [2#32] [])).isFaulted = false ∧
      1 ≠ (mk [5#32, 0#32, 42#32] [2#32] []).sp.toNat) ∧
    (exec .dropr near = .next (execed .dropr near) ∧ (execed .dropr near).isFaulted = false) :=
  ⟨⟨rfl, by decide, by decide, by decide⟩, ⟨rfl, by decide, by decide⟩, ⟨rfl, by decide, by decide⟩, rfl, by decide⟩

/-- A step that stores, from a legal state: for StepKeepsLegal, StepKeepsLowCells and StepKeepsDeviceHistory. -/
theorem witness_StepKeepsLegal : near.Legal ∧ step near = .next (stepped near) := ⟨by decide, rfl⟩

theorem witness_StepKeepsLowCells : step near = .next (stepped near) := rfl

theorem witness_StepKeepsDeviceHistory : step near = .next (stepped near) := rfl

/-- The input is exhausted with something in OUT. -/
theorem witness_ConditionsKeepOutput :
    ∃ s : State, s = { mk [5#32] [0#32] [] with output := [72#32] } ∧
    step s = .next (stepped s) ∧ (stepped s).status ≠ .running :=
  ⟨_, rfl, rfl, by decide⟩

theorem witness_InstructionCount :
    step near = .next (stepped near) ∧ (stepped near).status = .running ∧
    step empty = .next (stepped empty) ∧ (stepped empty).status ≠ .running := ⟨rfl, by decide, rfl, by decide⟩

theorem witness_TickCostOfCompleted :
    (near.status = .running ∧ near.budgetSpent = false ∧ near.memFetch near.pc = some 6#32 ∧
      decode near.cfg.opc 6#32 (near.memFetch (nextPc near.pc)) = .ok .storeVal ∧ step near = .next (stepped near) ∧
      (stepped near).status = .running) ∧
    (empty.status = .running ∧ empty.budgetSpent = false ∧ empty.memFetch empty.pc = some 0#32 ∧
      decode empty.cfg.opc 0#32 (empty.memFetch (nextPc empty.pc)) = .ok .hlt ∧ step empty = .next (stepped empty)) :=
  ⟨⟨by decide, by decide, by decide, by decide, rfl, by decide⟩, by decide, by decide, by decide, by decide, rfl⟩

theorem witness_HaltedExactlyByHlt :
    empty.cfg.opc.Injective ∧ step empty = .next (stepped empty) ∧ (stepped empty).status = .halted :=
  ⟨defaultOpc_injective, rfl, by decide⟩

theorem witness_InputExhaustedExactly :
    ∃ s : State, s = mk [5#32] [0#32] [] ∧
    s.cfg.opc.Injective ∧ step s = .next (stepped s) ∧ (stepped s).status = .inputExhausted :=
  ⟨_, rfl, defaultOpc_injective, rfl, by decide⟩

/-- Both bounds met with equality before the step (TICK 0, ICOUNT 0). -/
theorem witness_StepKeepsTickBounds :
    near.cfg.dropTicks = 1 ∧ 3 * near.icount ≤ near.tick ∧ near.tick ≤ 4 * near.icount ∧
    step near = .next (stepped near) ∧ (stepped near).status = .running ∧ (stepped near).isFaulted = false :=
  ⟨by decide, by decide, by decide, rfl, by decide, by decide⟩

theorem witness_EncoderImageContents :
    (∃ image, assemble defaultOpc (source8 1) = .ok image) ∧ (source8 1).instrs[1]? = some (.text ['x']) ∧
    (source8 1).data[0]? = some 3 ∧ Entry.text ['x'] ∈ (source8 1).instrs ∧ ∀ n, ¬ Denotes ['x'] n :=
  ⟨⟨_, rfl⟩, by decide, by decide, by decide, parseNumeral_eq_none_iff.1 (by decide)⟩

/-- An undefined name, a numeric string, a code and a data symbol; the bounds of the range and one past each. -/
theorem witness_ResolveFollowsRule :
    ((∀ n, ¬ Denotes ['y'] n) ∧ ∀ x ∈ (source8 1).symbols, x.1 ≠ ['y']) ∧
    Denotes ['-', '5'] (-5) ∧ (∀ n, ¬ Denotes ['x'] n) ∧ (∀ n, ¬ Denotes ['L', 'e'] n) ∧
    (source8 1).symbols = [(['x'], .data, 0), (['L', 'h'], .code, 0)] ++ (['L', 'e'], .code, 16) :: [] ∧
    (∀ x ∈ [((['x'], .data, 0) : List Char × SymbolKind × Int), (['L', 'h'], .code, 0)], x.1 ≠ ['L', 'e']) ∧
    (minSign ≤ minSign ∧ minSign ≤ maxSign ∧ minSign - 1 < minSign ∧ maxSign < maxSign + 1) :=
  ⟨⟨parseNumeral_eq_none_iff.1 (by decide), by decide⟩, parseNumeral_eq_some_iff.1 (by decide),
    parseNumeral_eq_none_iff.1 (by decide), parseNumeral_eq_none_iff.1 (by decide), rfl, by decide, by decide⟩

theorem witness_EncoderReportsFirstError :
    assemble defaultOpc (source8 2147483648) = .error (.rangeError 2147483648) ∧
    assemble defaultOpc { source8 1 with data := [3, -2147483649] } = .error (.rangeError (-2147483649)) ∧
    assemble defaultOpc { source8 1 with start := 2147483648 } = .error (.rangeError 2147483648) := by decide

theorem witness_ListingOneLinePerWord :
    ∃ image, assemble defaultOpc (source8 (-1)) = .ok image ∧ image[0]? = some 0#32 ∧ image[18]? = some 3#32 ∧
      (source8 (-1)).instrs.length < 18 ∧ image[17]? = some 0#32 ∧
      (source8 (-1)).instrs[17 - 1]? = some (.op .HLT) ∧ (.HLT, ['H', 'L', 'T']) ∈ opcodeNames ∧
      image[12]? = some (-1#32) ∧ (-1#32).toInt < 0 ∧ (source8 (-1)).instrs[12 - 1]? = some (.lit (-1)) ∧
      (source8 (-1)).instrs[2 - 1]? = some (.text ['x']) ∧ image[2]? = some 17#32 ∧ ∀ n, ¬ Denotes ['x'] n :=
  ⟨_, rfl, by decide, by decide, by decide, by decide, by decide, by decide, by decide, by decide, by decide, by decide,
    by decide, parseNumeral_eq_none_iff.1 (by decide)⟩

theorem witness_ListingOneLinePerWord_numeral :
    (∃ image, assemble defaultOpc ⟨[], [.text ['-', '5']], [], 0⟩ = .ok image ∧ image[1]? = some (-5#32)) ∧
    ∃ n, Denotes ['-', '5'] n := ⟨⟨_, rfl, by decide⟩, _, parseNumeral_eq_some_iff.1 rfl⟩

end Sys2Proof.Tests
end

section
/-! Proofs of the statements of 00_scope.md: the result wrap (R8) and the reset state. -/

namespace Sys2Proof.Machine

/-- Only the first fold of R8 applies below the Word range: adding RANGE never overshoots MAX_SIGN. -/
theorem wrap_of_lt_minSign {r : Int} (h : r < minSign) : wrap r = r + wordRange := by
  have hle : ¬ maxSign < r + wordRange := by unfold minSign maxSign wordRange at *; omega
  simp only [wrap, if_pos h, if_neg hle]

/-- Only the second fold of R8 applies above the Word range. -/
theorem wrap_of_maxSign_lt {r : Int} (h : maxSign < r) : wrap r = r - wordRange := by
  have hge : ¬ r < minSign := by unfold minSign maxSign at *; omega
  simp only [wrap, if_neg hge, if_pos h]

/-- Neither fold of R8 applies inside the Word range. -/
theorem wrap_of_inRange {r : Int} (hlo : minSign ≤ r) (hhi : r ≤ maxSign) : wrap r = r := by
  simp only [wrap, if_neg (Int.not_lt.2 hlo), if_neg (Int.not_lt.2 hhi)]

/-- At most one RANGE outside the Word range, one fold reaches it (R8). -/
theorem wrap_inRange {r : Int} (hlo : minSign - wordRange ≤ r) (hhi : r ≤ maxSign + wordRange) :
    minSign ≤ wrap r ∧ wrap r ≤ maxSign := by
  rcases lt_or_ge r minSign with hlt | hge
  · rw [wrap_of_lt_minSign hlt]; unfold minSign maxSign wordRange at *; omega
  rcases lt_or_ge maxSign r with hgt | hle
  · rw [wrap_of_maxSign_lt hgt]; unfold minSign maxSign wordRange at *; omega
  · rw [wrap_of_inRange hge hle]; exact ⟨hge, hle⟩

/-- A fold of R8 does not change the Word: an integer's Word depends on its residue modulo RANGE alone. -/
theorem toWord_add_wordRange (r : Int) : toWord (r + wordRange) = toWord r := by
  apply BitVec.eq_of_toInt_eq
  simp only [toWord, BitVec.toInt_ofInt]
  exact Int.add_bmod_right r (2 ^ 32)

/-- `wrap` keeps the residue modulo RANGE of every integer, however far outside the Word range. -/
@[simp] theorem toWord_wrap (r : Int) : toWord (wrap r) = toWord r := by
  rcases lt_or_ge r minSign with hlt | hge
  · rw [wrap_of_lt_minSign hlt, toWord_add_wordRange]
  rcases lt_or_ge maxSign r with hgt | hle
  · rw [wrap_of_maxSign_lt hgt, ← toWord_add_wordRange, Int.sub_add_cancel]
  · rw [wrap_of_inRange hge hle]

/-- The Word of an integer in the Word range has that value (00_scope.md R5, R7). -/
theorem toInt_toWord_of_inRange {r : Int} (hlo : minSign ≤ r) (hhi : r ≤ maxSign) : (toWord r).toInt = r :=
  BitVec.toInt_ofInt_eq_self (by decide) hlo (Int.lt_add_one_of_le hhi)

/-- Up to one RANGE outside the Word range, `wrap` is the two's-complement wrap-around: it lands in the Word range and
keeps the residue. -/
theorem toInt_toWord_eq_wrap {r : Int} (hlo : minSign - wordRange ≤ r) (hhi : r ≤ maxSign + wordRange) :
    (toWord r).toInt = wrap r := by
  obtain ⟨hmin, hmax⟩ := wrap_inRange hlo hhi
  rw [← toWord_wrap, toInt_toWord_of_inRange hmin hmax]

/-- The default parameters meet the constraints of 00_scope.md R6 for every memory a Word can address. -/
theorem defaultConfig_wellFormed {n : Nat} (h : (n : Int) ≤ maxSign) : (defaultConfig n).WellFormed where
  opc_injective := defaultOpc_injective
  memSize_le := h
  dstackCap_pos := by simp [defaultConfig, defaultStackCap]
  rstackCap_pos := by simp [defaultConfig, defaultStackCap]
  eqTrue_ne := by simp [defaultConfig]
  dropTicks_le := by simp [defaultConfig]

/-- The image `[0]` has no cell, so loading it by default leaves the reset state itself (log 5). -/
theorem State.loadDefault_zero : State.loadDefault [0#32] [] = some State.reset := rfl

/-- The reset state's stack pointers are those of empty stacks, and its arrays list no cell (10_state.md R36). -/
theorem State.reset_legal : State.reset.Legal := by
  have pointers : State.reset.PointersInRange := by decide
  have arrays : State.reset.ArraysLegal :=
    ⟨⟨Cells.wf_nil, Cells.within_nil _⟩, ⟨Cells.wf_nil, Cells.within_nil _⟩, ⟨Cells.wf_nil, Cells.within_nil _⟩⟩
  exact ⟨pointers, arrays⟩

/-- Settles O38: one case of `wrap` for each fold, and the wrap-around from `toInt_toWord_eq_wrap`. -/
theorem wrapIsTwosComplement : Obligations.WrapIsTwosComplement := fun _ =>
  ⟨wrap_of_lt_minSign, wrap_of_maxSign_lt, wrap_of_inRange,
    fun hlo hhi => ⟨(toInt_toWord_eq_wrap hlo hhi).symm, wrap_inRange hlo hhi⟩⟩

/-- Settles O3: the load of `[0]`, the default parameters with no memory cell, and the legality of the reset state. -/
theorem resetStateIsLegal : Obligations.ResetStateIsLegal :=
  ⟨State.loadDefault_zero, defaultConfig_wellFormed (by decide), State.reset_legal⟩

end Sys2Proof.Machine
end

section
/-! Proofs of the statements of 10_state.md. First R20's "written by" column: what the execute phase of each instruction
can do to each element of the state, one lemma per element; the frames and the invariants are read off these. -/

namespace Sys2Proof.Machine

/-! ### The arithmetic and the memory instructions: their outcomes, the shared operation resolved -/

/-- The five arithmetic instructions share one micro-sequence (43_alu.md R151). -/
theorem exec_eq_execAlu {i : Instr} (hi : i.mnemonic ∈ [Mnemonic.ADD, .SUB, .MOD, .EQ, .OR]) :
    ∃ op, ∀ s, exec i s = execAlu op s := by
  cases i with
  | add => exact ⟨.add, exec_add⟩
  | sub => exact ⟨.sub, exec_sub⟩
  | mod => exact ⟨.mod, exec_mod⟩
  | eq => exact ⟨.eq, exec_eq⟩
  | or => exact ⟨.or, exec_or⟩
  | _ => simp [Instr.mnemonic] at hi

/-- An arithmetic instruction replaces SOS and drops TOS, or raises a condition with nothing done. -/
theorem exec_arithmetic_outcomes {i : Instr} {s t : State} (hi : i.mnemonic ∈ [Mnemonic.ADD, .SUB, .MOD, .EQ, .OR])
    (h : exec i s = .next t) :
    t = s.fault .dStackUnderflow ∨ (∃ c, t = s.raise c) ∨
    (1 ≤ s.sp ∧ ∃ v, t = ((s.addTicks 1).dsWrite (s.sp - 1) v).setSp (s.sp - 1)) := by
  obtain ⟨op, hop⟩ := exec_eq_execAlu hi
  rw [hop] at h
  rcases execAlu_cases h with ⟨-, rfl⟩ | ⟨-, c, -, rfl⟩ | ⟨hs, r, -, rfl⟩
  · exact .inl rfl
  · exact .inr (.inl ⟨c, rfl⟩)
  · exact .inr (.inr ⟨hs, _, rfl⟩)

/-- GET_VAL with its data read resolved: it pops the input device or reads a cell of memory, into the old top. -/
theorem execGetVal_outcomes {s t : State} (h : execGetVal s = .next t) :
    t = s.fault .dStackUnderflow ∨
    (∃ c, t = ((s.setDar (s.dsRead s.sp)).addTicks 1).raise c) ∨
    (0 ≤ s.sp ∧ s.dsRead s.sp = inAddr ∧ ∃ v rest, s.input = v :: rest ∧
      t = (((s.setDar (s.dsRead s.sp)).addTicks 1).setInput rest).dsWrite s.sp v) ∨
    (0 ≤ s.sp ∧ ∃ v, t = ((s.setDar (s.dsRead s.sp)).addTicks 1).dsWrite s.sp v) := by
  rcases execGetVal_cases h with ⟨-, rfl⟩ | ⟨-, c, -, rfl⟩ | ⟨hs, v, u, hu, rfl⟩
  · exact .inl rfl
  · exact .inr (.inl ⟨c, rfl⟩)
  · rcases State.memRead_ok hu with ⟨ha, rest, hin, rfl⟩ | ⟨-, -, -, -, rfl⟩
    · exact .inr (.inr (.inl ⟨hs, ha, v, rest, hin, rfl⟩))
    · exact .inr (.inr (.inr ⟨hs, v, rfl⟩))

/-- STORE_VAL with its data write resolved: it appends to the output device or writes a cell of memory. -/
theorem execStoreVal_outcomes {s t : State} (h : execStoreVal s = .next t) :
    t = s.fault .dStackUnderflow ∨
    (∃ c, t = ((s.setDar (s.dsRead (s.sp - 1))).addTicks 1).raise c) ∨
    (1 ≤ s.sp ∧ s.sos = some outAddr ∧ ∃ v,
      t = (((s.setDar outAddr).addTicks 1).setOutput (s.output ++ [v])).setSp (s.sp - 2)) ∨
    (1 ≤ s.sp ∧ ∃ a v, s.sos = some a ∧ a ≠ inAddr ∧ a ≠ outAddr ∧ s.inMem a = true ∧
      t = (((s.setDar a).addTicks 1).setMem (s.mem.write a.toNat v)).setSp (s.sp - 2)) := by
  rcases execStoreVal_cases h with ⟨-, rfl⟩ | ⟨-, c, -, rfl⟩ | ⟨hs, u, hu, rfl⟩
  · exact .inl rfl
  · exact .inr (.inl ⟨c, rfl⟩)
  · have hsos := State.sos_of_pos hs
    rcases State.memWrite_ok hu with ⟨ha, rfl⟩ | ⟨hin, hout, hm, rfl⟩
    · rw [ha] at hsos ⊢
      exact .inr (.inr (.inl ⟨hs, hsos, _, rfl⟩))
    · exact .inr (.inr (.inr ⟨hs, _, _, hsos, hin, hout, hm, rfl⟩))

/-! ### Which elements an instruction can write -/

/-- `s` with the elements that 10_state.md R20 lets the execute phase of `m` write taken from `t`. Every instruction may
raise a condition, so STATUS is always among them. -/
def State.overwrittenBy (s t : State) : Mnemonic → State
  | .HLT => { s with status := t.status }
  | .JMP => { s with pc := t.pc, tick := t.tick, status := t.status }
  | .JZ => { s with pc := t.pc, sp := t.sp, tick := t.tick, status := t.status }
  | .CALL | .PUSHR => { s with pc := t.pc, rs := t.rs, rsp := t.rsp, tick := t.tick, status := t.status }
  | .RET => { s with pc := t.pc, rsp := t.rsp, tick := t.tick, status := t.status }
  | .GET_VAL => { s with ds := t.ds, dar := t.dar, input := t.input, tick := t.tick, status := t.status }
  | .STORE_VAL =>
    { s with sp := t.sp, dar := t.dar, mem := t.mem, output := t.output, tick := t.tick, status := t.status }
  | .PEEK | .PUSH => { s with pc := t.pc, ds := t.ds, sp := t.sp, tick := t.tick, status := t.status }
  | .DROP => { s with sp := t.sp, tick := t.tick, status := t.status }
  | .DROPR => { s with rsp := t.rsp, tick := t.tick, status := t.status }
  | .ADD | .SUB | .MOD | .EQ | .OR => { s with ds := t.ds, sp := t.sp, tick := t.tick, status := t.status }

/-- The execute phase of an instruction writes only what R20 lets it write. -/
theorem exec_frame {i : Instr} {s t : State} (h : exec i s = .next t) : t = s.overwrittenBy t i.mnemonic := by
  cases i with
  | hlt => rcases execHlt_cases h with rfl; rfl
  | jmp o => rcases execJmp_cases h with ⟨-, rfl⟩ | ⟨a, -, rfl⟩ <;> rfl
  | jz o =>
    rcases execJz_cases h with ⟨-, rfl⟩ | ⟨-, -, -, rfl⟩ | ⟨-, -, a, -, rfl⟩ | ⟨-, -, rfl⟩ <;> rfl
  | call o => rcases execCall_cases h with ⟨-, rfl⟩ | ⟨-, -, rfl⟩ | ⟨-, a, -, rfl⟩ <;> rfl
  | ret => rcases execRet_cases h with ⟨-, rfl⟩ | ⟨-, rfl⟩ <;> rfl
  | getVal =>
    rcases execGetVal_outcomes h with rfl | ⟨c, rfl⟩ | ⟨-, -, v, rest, -, rfl⟩ | ⟨-, v, rfl⟩ <;> rfl
  | storeVal =>
    rcases execStoreVal_outcomes h with rfl | ⟨c, rfl⟩ | ⟨-, -, v, rfl⟩ | ⟨-, a, v, -, -, -, -, rfl⟩ <;> rfl
  | peek o =>
    rcases execPeek_cases h with ⟨-, rfl⟩ | ⟨-, -, rfl⟩ | ⟨-, k, -, -, rfl⟩ | ⟨-, k, -, -, -, rfl⟩ <;> rfl
  | push o => rcases execPush_cases h with ⟨-, rfl⟩ | ⟨-, -, rfl⟩ | ⟨-, v, -, rfl⟩ <;> rfl
  | drop => rcases execDrop_cases h with ⟨-, rfl⟩ | ⟨-, rfl⟩ <;> rfl
  | pushr o => rcases execPushr_cases h with ⟨-, rfl⟩ | ⟨-, -, rfl⟩ | ⟨-, v, -, rfl⟩ <;> rfl
  | dropr => rcases execDropr_cases h with ⟨-, rfl⟩ | ⟨-, rfl⟩ <;> rfl
  | add | sub | mod | eq | or =>
    rcases exec_arithmetic_outcomes (by decide) h with rfl | ⟨c, rfl⟩ | ⟨-, v, rfl⟩ <;> rfl

theorem exec_keeps_cfg {i : Instr} {s t : State} (h : exec i s = .next t) : t.cfg = s.cfg := by
  rw [exec_frame h]; cases i <;> rfl

theorem exec_keeps_ir {i : Instr} {s t : State} (h : exec i s = .next t) : t.ir = s.ir := by
  rw [exec_frame h]; cases i <;> rfl

theorem exec_keeps_icount {i : Instr} {s t : State} (h : exec i s = .next t) : t.icount = s.icount := by
  rw [exec_frame h]; cases i <;> rfl

theorem exec_keeps_dar {i : Instr} {s t : State} (h : exec i s = .next t) (hg : i ≠ .getVal) (hs : i ≠ .storeVal) :
    t.dar = s.dar := by
  rw [exec_frame h]
  cases i with
  | getVal => exact absurd rfl hg
  | storeVal => exact absurd rfl hs
  | _ => rfl

theorem exec_keeps_pc {i : Instr} {s t : State} (h : exec i s = .next t)
    (hm : i.mnemonic ∉ [Mnemonic.JMP, .JZ, .CALL, .RET, .PUSH, .PUSHR, .PEEK]) : t.pc = s.pc := by
  rw [exec_frame h]
  cases i <;> simp [Instr.mnemonic, State.overwrittenBy] at hm ⊢

theorem exec_keeps_rsp {i : Instr} {s t : State} (h : exec i s = .next t)
    (hm : i.mnemonic ∉ [Mnemonic.CALL, .RET, .PUSHR, .DROPR]) : t.rsp = s.rsp := by
  rw [exec_frame h]
  cases i <;> simp [Instr.mnemonic, State.overwrittenBy] at hm ⊢

theorem exec_keeps_sp {i : Instr} {s t : State} (h : exec i s = .next t)
    (hm : i.mnemonic ∈ [Mnemonic.HLT, .JMP, .CALL, .RET, .GET_VAL, .PUSHR, .DROPR]) : t.sp = s.sp := by
  rw [exec_frame h]
  cases i <;> simp [Instr.mnemonic, State.overwrittenBy] at hm ⊢

/-! ### How each element is written -/

/-- RSP moves by one, up only where there is room and down only where there is a value. -/
theorem exec_rsp {i : Instr} {s t : State} (h : exec i s = .next t) :
    t.rsp = s.rsp ∨ (s.rsFull = false ∧ t.rsp = s.rsp + 1) ∨ (0 ≤ s.rsp ∧ t.rsp = s.rsp - 1) := by
  cases i with
  | call o => rcases execCall_cases h with ⟨-, rfl⟩ | ⟨hr, -, rfl⟩ | ⟨hr, a, -, rfl⟩ <;> simp [*]
  | pushr o => rcases execPushr_cases h with ⟨-, rfl⟩ | ⟨hr, -, rfl⟩ | ⟨hr, v, -, rfl⟩ <;> simp [*]
  | ret => rcases execRet_cases h with ⟨-, rfl⟩ | ⟨hr, rfl⟩ <;> simp [*]
  | dropr => rcases execDropr_cases h with ⟨-, rfl⟩ | ⟨hr, rfl⟩ <;> simp [*]
  | _ => left; rw [exec_frame h]; rfl

/-- SP moves by at most two, up only where there is room and down only past values. -/
theorem exec_sp {i : Instr} {s t : State} (h : exec i s = .next t) :
    t.sp = s.sp ∨ (s.dsFull = false ∧ t.sp = s.sp + 1) ∨ (0 ≤ s.sp ∧ t.sp = s.sp - 1) ∨
    (1 ≤ s.sp ∧ t.sp = s.sp - 2) := by
  cases i with
  | jz o =>
    rcases execJz_cases h with ⟨-, rfl⟩ | ⟨-, -, -, rfl⟩ | ⟨hs, -, a, -, rfl⟩ | ⟨hs, -, rfl⟩ <;> simp [*]
  | storeVal =>
    rcases execStoreVal_outcomes h with rfl | ⟨c, rfl⟩ | ⟨hs, -, v, rfl⟩ | ⟨hs, a, v, -, -, -, -, rfl⟩ <;> simp [*]
  | peek o =>
    rcases execPeek_cases h with ⟨-, rfl⟩ | ⟨hs, -, rfl⟩ | ⟨hs, k, -, -, rfl⟩ | ⟨hs, k, -, -, -, rfl⟩ <;> simp [*]
  | push o => rcases execPush_cases h with ⟨-, rfl⟩ | ⟨hs, -, rfl⟩ | ⟨hs, v, -, rfl⟩ <;> simp [*]
  | drop => rcases execDrop_cases h with ⟨-, rfl⟩ | ⟨hs, rfl⟩ <;> simp [*]
  | add | sub | mod | eq | or =>
    rcases exec_arithmetic_outcomes (by decide) h with rfl | ⟨c, rfl⟩ | ⟨hs, v, rfl⟩
    · exact .inl rfl
    · exact .inl rfl
    · exact .inr (.inr (.inl ⟨by omega, rfl⟩))
  | _ => left; rw [exec_frame h]; rfl

/-- The return stack is written by CALL and PUSHR alone, at the new top, which exists. -/
theorem exec_rs {i : Instr} {s t : State} (h : exec i s = .next t) :
    t.rs = s.rs ∨ (i.mnemonic ∈ [Mnemonic.CALL, .PUSHR] ∧ s.rsFull = false ∧
      ∃ v, t.rs = s.rs.write (s.rsp + 1).toNat v) := by
  cases i with
  | call o =>
    rcases execCall_cases h with ⟨-, rfl⟩ | ⟨hr, -, rfl⟩ | ⟨hr, a, -, rfl⟩
    · exact .inl rfl
    · exact .inr ⟨by simp [Instr.mnemonic], hr, _, rfl⟩
    · exact .inr ⟨by simp [Instr.mnemonic], hr, _, rfl⟩
  | pushr o =>
    rcases execPushr_cases h with ⟨-, rfl⟩ | ⟨-, -, rfl⟩ | ⟨hr, v, -, rfl⟩
    · exact .inl rfl
    · exact .inl rfl
    · exact .inr ⟨by simp [Instr.mnemonic], hr, v, rfl⟩
  | _ => left; rw [exec_frame h]; rfl

/-- The index of the operand-stack cell that R20 lets `m` write: the new top, the old top, or SOS. -/
def State.dsTarget (s : State) : Mnemonic → Option Int
  | .PEEK | .PUSH => some (s.sp + 1)
  | .GET_VAL => some s.sp
  | .ADD | .SUB | .MOD | .EQ | .OR => some (s.sp - 1)
  | .HLT | .JMP | .JZ | .CALL | .RET | .STORE_VAL | .DROP | .PUSHR | .DROPR => none

/-- Where the operand stack has room the new top exists. -/
theorem State.newTop_lt_dstackCap {s : State} (hf : s.dsFull = false) (hp : s.PointersInRange) :
    (s.sp + 1).toNat < s.cfg.dstackCap := by
  simp [State.dsFull] at hf
  omega

/-- Where the return stack has room the new top exists. -/
theorem State.newTop_lt_rstackCap {s : State} (hf : s.rsFull = false) (hp : s.PointersInRange) :
    (s.rsp + 1).toNat < s.cfg.rstackCap := by
  simp [State.rsFull] at hf
  omega

/-- The operand stack is written at `dsTarget` alone, which exists while the stack pointers are in range. -/
theorem exec_ds {i : Instr} {s t : State} (h : exec i s = .next t) :
    t.ds = s.ds ∨ ∃ k v, s.dsTarget i.mnemonic = some k ∧ (s.PointersInRange → k.toNat < s.cfg.dstackCap) ∧
      t.ds = s.ds.write k.toNat v := by
  cases i with
  | getVal =>
    rcases execGetVal_outcomes h with rfl | ⟨c, rfl⟩ | ⟨hs, -, v, rest, -, rfl⟩ | ⟨hs, v, rfl⟩
    · exact .inl rfl
    · exact .inl rfl
    · exact .inr ⟨s.sp, v, rfl, by omega, rfl⟩
    · exact .inr ⟨s.sp, v, rfl, by omega, rfl⟩
  | peek o =>
    rcases execPeek_cases h with ⟨-, rfl⟩ | ⟨-, -, rfl⟩ | ⟨-, k, -, -, rfl⟩ | ⟨hs, k, -, -, -, rfl⟩
    · exact .inl rfl
    · exact .inl rfl
    · exact .inl rfl
    · exact .inr ⟨s.sp + 1, _, rfl, State.newTop_lt_dstackCap hs, rfl⟩
  | push o =>
    rcases execPush_cases h with ⟨-, rfl⟩ | ⟨-, -, rfl⟩ | ⟨hs, v, -, rfl⟩
    · exact .inl rfl
    · exact .inl rfl
    · exact .inr ⟨s.sp + 1, v, rfl, State.newTop_lt_dstackCap hs, rfl⟩
  | add | sub | mod | eq | or =>
    rcases exec_arithmetic_outcomes (by decide) h with rfl | ⟨c, rfl⟩ | ⟨hs, v, rfl⟩
    · exact .inl rfl
    · exact .inl rfl
    · exact .inr ⟨s.sp - 1, _, rfl, by omega, rfl⟩
  | _ => left; rw [exec_frame h]; rfl

/-- Memory is written by STORE_VAL alone, in the cell SOS names, which exists and is no device. -/
theorem exec_mem {i : Instr} {s t : State} (h : exec i s = .next t) :
    t.mem = s.mem ∨ (i = .storeVal ∧ ∃ a v, s.sos = some a ∧ a ≠ inAddr ∧ a ≠ outAddr ∧ s.inMem a = true ∧
      t.mem = s.mem.write a.toNat v) := by
  cases i with
  | storeVal =>
    rcases execStoreVal_outcomes h with rfl | ⟨c, rfl⟩ | ⟨-, -, v, rfl⟩ | ⟨-, a, v, ha, hin, hout, hm, rfl⟩
    · exact .inl rfl
    · exact .inl rfl
    · exact .inl rfl
    · exact .inr ⟨rfl, a, v, ha, hin, hout, hm, rfl⟩
  | _ => left; rw [exec_frame h]; rfl

/-- IN loses its head to GET_VAL of the input address, and nothing otherwise. -/
theorem exec_input {i : Instr} {s t : State} (h : exec i s = .next t) :
    t.input = s.input ∨ (i = .getVal ∧ s.tos = some inAddr ∧ ∃ c, s.input = c :: t.input) := by
  cases i with
  | getVal =>
    rcases execGetVal_outcomes h with rfl | ⟨c, rfl⟩ | ⟨hs, ha, v, rest, hin, rfl⟩ | ⟨-, v, rfl⟩
    · exact .inl rfl
    · exact .inl rfl
    · exact .inr ⟨rfl, State.tos_eq_some.2 ⟨hs, ha⟩, v, hin⟩
    · exact .inl rfl
  | _ => left; rw [exec_frame h]; rfl

/-- OUT gains a code at its end from STORE_VAL to the output address, and nothing otherwise. -/
theorem exec_output {i : Instr} {s t : State} (h : exec i s = .next t) :
    t.output = s.output ∨ (i = .storeVal ∧ s.sos = some outAddr ∧ ∃ v, t.output = s.output ++ [v]) := by
  cases i with
  | storeVal =>
    rcases execStoreVal_outcomes h with rfl | ⟨c, rfl⟩ | ⟨-, ha, v, rfl⟩ | ⟨-, a, v, -, -, -, -, rfl⟩
    · exact .inl rfl
    · exact .inl rfl
    · exact .inr ⟨rfl, ha, v, rfl⟩
    · exact .inl rfl
  | _ => left; rw [exec_frame h]; rfl

/-- An execute phase only counts ticks up. -/
theorem exec_tick_le {i : Instr} {s t : State} (h : exec i s = .next t) : s.tick ≤ t.tick := by
  cases i with
  | hlt => rcases execHlt_cases h with rfl; simp
  | jmp o => rcases execJmp_cases h with ⟨-, rfl⟩ | ⟨a, -, rfl⟩ <;> simp
  | jz o =>
    rcases execJz_cases h with ⟨-, rfl⟩ | ⟨-, -, -, rfl⟩ | ⟨-, -, a, -, rfl⟩ | ⟨-, -, rfl⟩ <;> simp
  | call o => rcases execCall_cases h with ⟨-, rfl⟩ | ⟨-, -, rfl⟩ | ⟨-, a, -, rfl⟩ <;> simp [Nat.add_assoc]
  | ret => rcases execRet_cases h with ⟨-, rfl⟩ | ⟨-, rfl⟩ <;> simp
  | getVal =>
    rcases execGetVal_outcomes h with rfl | ⟨c, rfl⟩ | ⟨-, -, v, rest, -, rfl⟩ | ⟨-, v, rfl⟩ <;> simp
  | storeVal =>
    rcases execStoreVal_outcomes h with rfl | ⟨c, rfl⟩ | ⟨-, -, v, rfl⟩ | ⟨-, a, v, -, -, -, -, rfl⟩ <;> simp
  | peek o =>
    rcases execPeek_cases h with ⟨-, rfl⟩ | ⟨-, -, rfl⟩ | ⟨-, k, -, -, rfl⟩ | ⟨-, k, -, -, -, rfl⟩ <;> simp
  | push o => rcases execPush_cases h with ⟨-, rfl⟩ | ⟨-, -, rfl⟩ | ⟨-, v, -, rfl⟩ <;> simp
  | drop => rcases execDrop_cases h with ⟨-, rfl⟩ | ⟨-, rfl⟩ <;> simp
  | pushr o => rcases execPushr_cases h with ⟨-, rfl⟩ | ⟨-, -, rfl⟩ | ⟨-, v, -, rfl⟩ <;> simp
  | dropr => rcases execDropr_cases h with ⟨-, rfl⟩ | ⟨-, rfl⟩ <;> simp
  | add | sub | mod | eq | or =>
    rcases exec_arithmetic_outcomes (by decide) h with rfl | ⟨c, rfl⟩ | ⟨-, v, rfl⟩ <;> simp

/-! ### Frames over every instruction (R20) -/

/-- The cells a frame speaks of are not the one `dsTarget` names. -/
theorem State.dsTarget_ne {s : State} {m : Mnemonic} {j : Nat} {k : Int}
    (hj : m ∈ [Mnemonic.HLT, .JMP, .JZ, .CALL, .RET, .STORE_VAL, .DROP, .PUSHR, .DROPR] ∨
      (m ∈ [Mnemonic.PUSH, .PEEK] ∧ j ≠ (s.sp + 1).toNat) ∨ (m = .GET_VAL ∧ j ≠ s.sp.toNat) ∨
      (m ∈ [Mnemonic.ADD, .SUB, .MOD, .EQ, .OR] ∧ j ≠ (s.sp - 1).toNat))
    (hk : s.dsTarget m = some k) : j ≠ k.toNat := by
  cases m <;> simp [State.dsTarget] at hj hk <;> simpa [← hk] using hj

/-- Settles O43: memory, OUT and IN change as `exec_mem`, `exec_output` and `exec_input` say, and in no other way. -/
theorem frameMemoryAndDevices : Obligations.FrameMemoryAndDevices := by
  refine fun i s t h _ => ⟨fun hi => ⟨?output, ?memory⟩, fun hi => ?input⟩
  case output =>
    rcases exec_output h with ho | ⟨hs, -⟩
    · exact ho
    · exact absurd hs hi
  case memory =>
    rcases exec_mem h with hm | ⟨hs, -⟩
    · exact fun a => by rw [hm]
    · exact absurd hs hi
  case input =>
    rcases exec_input h with hin | ⟨hg, htos, -⟩
    · exact hin
    · exact (hi.elim (absurd hg) (absurd htos))

/-- Settles O45: none of these elements is among those `exec_frame` lets the instruction write. -/
theorem frameInternalRegisters : Obligations.FrameInternalRegisters := fun _ _ _ h _ =>
  ⟨exec_keeps_cfg h, exec_keeps_ir h, exec_keeps_icount h, exec_keeps_dar h, exec_keeps_pc h⟩

/-- Settles O46: the one write of the return stack is at the new top, `exec_rs`. -/
theorem frameReturnStack : Obligations.FrameReturnStack := by
  refine fun i s t h _ => ⟨exec_keeps_rsp h, ?_⟩
  rcases exec_rs h with hrs | ⟨hm, -, v, hrs⟩ <;> rw [hrs]
  · exact ⟨fun _ _ => rfl, fun _ _ => rfl⟩
  · exact ⟨fun hn => absurd hm hn, fun j hj => Cells.read_write_ne s.rs v hj⟩

/-- Settles O47: the one write of the operand stack is at `dsTarget`, which none of the listed cells is. -/
theorem frameOperandStack : Obligations.FrameOperandStack := by
  refine fun i s t h _ => ⟨exec_keeps_sp h, fun j hj => ?_⟩
  rcases exec_ds h with hds | ⟨k, v, hk, -, hds⟩ <;> rw [hds]
  exact Cells.read_write_ne s.ds v (State.dsTarget_ne hj hk)

/-! ### The invariant (R26): the execute phase, then the step around it -/

theorem exec_keeps_pointersInRange {i : Instr} {s t : State} (h : exec i s = .next t) (hp : s.PointersInRange) :
    t.PointersInRange := by
  have hsp := exec_sp h
  have hrsp := exec_rsp h
  simp only [State.dsFull, State.rsFull, decide_eq_false_iff_not] at hsp hrsp
  simp only [State.PointersInRange, exec_keeps_cfg h]
  omega

theorem exec_keeps_mem_legal {i : Instr} {s t : State} (h : exec i s = .next t)
    (hm : Cells.wf s.mem = true ∧ Cells.within s.cfg.memSize s.mem = true) :
    Cells.wf t.mem = true ∧ Cells.within s.cfg.memSize t.mem = true := by
  obtain ⟨hwf, hwithin⟩ := hm
  rcases exec_mem h with he | ⟨-, a, v, -, -, -, ha, he⟩ <;> rw [he]
  · exact ⟨hwf, hwithin⟩
  · exact ⟨Cells.wf_write hwf _ v, Cells.within_write hwithin (State.toNat_lt_of_inMem ha) v⟩

theorem exec_keeps_ds_legal {i : Instr} {s t : State} (h : exec i s = .next t) (hp : s.PointersInRange)
    (hd : Cells.wf s.ds = true ∧ Cells.within s.cfg.dstackCap s.ds = true) :
    Cells.wf t.ds = true ∧ Cells.within s.cfg.dstackCap t.ds = true := by
  obtain ⟨hwf, hwithin⟩ := hd
  rcases exec_ds h with he | ⟨k, v, -, hk, he⟩ <;> rw [he]
  · exact ⟨hwf, hwithin⟩
  · exact ⟨Cells.wf_write hwf _ v, Cells.within_write hwithin (hk hp) v⟩

theorem exec_keeps_rs_legal {i : Instr} {s t : State} (h : exec i s = .next t) (hp : s.PointersInRange)
    (hr : Cells.wf s.rs = true ∧ Cells.within s.cfg.rstackCap s.rs = true) :
    Cells.wf t.rs = true ∧ Cells.within s.cfg.rstackCap t.rs = true := by
  obtain ⟨hwf, hwithin⟩ := hr
  rcases exec_rs h with he | ⟨-, hf, v, he⟩ <;> rw [he]
  · exact ⟨hwf, hwithin⟩
  · exact ⟨Cells.wf_write hwf _ v, Cells.within_write hwithin (State.newTop_lt_rstackCap hf hp) v⟩

/-- The execute phase of every instruction keeps a legal state legal, whether or not it raises a condition. -/
theorem exec_keeps_legal {i : Instr} {s t : State} (h : exec i s = .next t) (hl : s.Legal) : t.Legal := by
  obtain ⟨hp, hmem, hds, hrs⟩ := hl
  refine ⟨exec_keeps_pointersInRange h hp, ?_⟩
  rw [State.ArraysLegal, exec_keeps_cfg h]
  exact ⟨exec_keeps_mem_legal h hmem, exec_keeps_ds_legal h hp hds, exec_keeps_rs_legal h hp hrs⟩

/-- Raising a condition changes STATUS alone, which the invariant does not read. -/
theorem State.raise_legal {s : State} (h : s.Legal) (c : Condition) : (s.raise c).Legal := h

/-- The fetch writes IR, PC and TICK, which the invariant does not read. -/
theorem State.fetched_legal {s : State} (h : s.Legal) (w : Word) : (s.fetched w).Legal := h

/-- The end of a completed instruction writes TICK and ICOUNT, which the invariant does not read. -/
theorem State.completed_legal {s : State} (h : s.Legal) : (s.addTicks 1).countInstr.Legal := h

/-- Settles O48: `exec_keeps_legal` between the fetch and the end of the step, which leave the stacks and memory alone. -/
theorem stepKeepsLegal : Obligations.StepKeepsLegal := by
  intro s t hl h
  obtain ⟨-, ⟨-, rfl⟩ | ⟨-, -, rfl⟩ | ⟨w, -, -, -, rfl⟩ | ⟨w, m, u, -, -, -, hu, hend⟩⟩ := step_cases h
  · exact State.raise_legal hl _
  · exact State.raise_legal hl _
  · exact State.raise_legal (State.fetched_legal hl w) _
  · have hul : u.Legal := exec_keeps_legal hu (State.fetched_legal hl w)
    rcases hend with ⟨-, rfl⟩ | ⟨-, rfl⟩
    · exact hul
    · exact State.completed_legal hul

/-- What the reset procedure answers (70_reset_and_hazards.md R231). -/
theorem State.load_eq_some {cfg : Config} {image codes : List Word} {s : State} (h : State.load cfg image codes = some s) :
    ∃ entry cells, image = entry :: cells ∧ cells.length ≤ cfg.memSize ∧
      s = { State.reset with cfg := cfg, pc := entry, mem := Cells.ofList cells, input := codes } := by
  cases image with
  | nil => cases h
  | cons entry cells =>
    simp only [State.load, Option.ite_none_right_eq_some, Option.some.injEq] at h
    exact ⟨entry, cells, rfl, h.1, h.2.symm⟩

/-- Settles O2: the stacks are empty and the image fits in memory. -/
theorem loadedStateIsLegal : Obligations.LoadedStateIsLegal := by
  intro cfg image codes s h
  obtain ⟨entry, cells, -, hlen, rfl⟩ := State.load_eq_some h
  refine ⟨?pointers, ?arrays⟩
  case pointers =>
    simp only [State.PointersInRange, State.reset]
    omega
  case arrays =>
    exact ⟨⟨Cells.wf_ofList cells, Cells.within_ofList _ cells hlen⟩, ⟨Cells.wf_nil, Cells.within_nil _⟩,
      ⟨Cells.wf_nil, Cells.within_nil _⟩⟩

/-! ### Rules over every step -/

/-- A machine that is not Running takes no step (R33). -/
theorem step_of_not_running {s : State} (h : s.status ≠ .running) : step s = .fault (.notRunning s.status) := by
  simp [step, beginStep, h]

/-- The end of a step keeps a next state a next state. -/
theorem endStep_next (s : State) : ∃ t, endStep (.next s) = .next t := by
  by_cases h : s.status = .running <;> simp [endStep, h]

/-- A Running machine always takes a step (R33). -/
theorem step_of_running {s : State} (h : s.status = .running) : ∃ t, step s = .next t := by
  cases hb : s.budgetSpent with
  | true => exact ⟨s.raise .tickLimit, by simp [step, beginStep, h, hb]⟩
  | false =>
    have hstep : beginStep s = fetchDecode s := by simp [beginStep, h, hb]
    rcases fetchDecode_cases s with ⟨-, hf⟩ | ⟨w, -, -, hf⟩ | ⟨w, m, -, -, hf⟩ <;> simp only [step, hstep, hf]
    · exact ⟨_, rfl⟩
    · exact ⟨_, rfl⟩
    · obtain ⟨u, hu⟩ := exec_answers (Instr.ofMnemonic m ((s.fetched w).memFetch (s.fetched w).pc)) (s.fetched w)
      rw [hu]
      exact endStep_next u

/-- Settles O14, one direction each. -/
theorem stepsExactlyWhileRunning : Obligations.StepsExactlyWhileRunning := fun _ =>
  ⟨step_of_not_running, step_of_running⟩

/-- Settles O50: an execute phase takes at most the head of IN, adds at most one code to OUT and counts ticks up; the rest
of a step touches neither device and counts at most its own ticks. -/
theorem stepKeepsDeviceHistory : Obligations.StepKeepsDeviceHistory := by
  intro s t h
  obtain ⟨-, ⟨-, rfl⟩ | ⟨-, -, rfl⟩ | ⟨w, -, -, -, rfl⟩ | ⟨w, m, u, -, -, -, hu, hend⟩⟩ := step_cases h
  · exact ⟨.inl rfl, .inl rfl, le_rfl⟩
  · exact ⟨.inl rfl, .inl rfl, le_rfl⟩
  · exact ⟨.inl rfl, .inl rfl, Nat.le_succ _⟩
  · have hin : s.input = u.input ∨ ∃ c, s.input = c :: u.input := (exec_input hu).imp Eq.symm fun hg => hg.2.2
    have hout : u.output = s.output ∨ ∃ v, u.output = s.output ++ [v] := (exec_output hu).imp_right fun hs => hs.2.2
    have htick : s.tick ≤ u.tick := (Nat.le_succ _).trans (exec_tick_le hu)
    rcases hend with ⟨-, rfl⟩ | ⟨-, rfl⟩
    · exact ⟨hin, hout, htick⟩
    · exact ⟨hin, hout, htick.trans (Nat.le_succ _)⟩

/-- Raising a condition stops the machine and does not count the instruction. -/
theorem State.raise_not_counted (s : State) (c : Condition) :
    ((s.raise c).status = .running → (s.raise c).icount = s.icount + 1) ∧
    ((s.raise c).status ≠ .running → (s.raise c).icount = s.icount) :=
  ⟨fun hr => absurd hr (Condition.status_ne_running c), fun _ => rfl⟩

/-- Settles O52: only the end of a completed instruction writes ICOUNT. -/
theorem instructionCount : Obligations.InstructionCount := by
  intro s t h
  obtain ⟨-, ⟨-, rfl⟩ | ⟨-, -, rfl⟩ | ⟨w, -, -, -, rfl⟩ | ⟨w, m, u, -, -, -, hu, hend⟩⟩ := step_cases h
  · exact State.raise_not_counted s _
  · exact State.raise_not_counted s _
  · exact State.raise_not_counted (s.fetched w) _
  · have hcount : u.icount = (s.fetched w).icount := exec_keeps_icount hu
    rcases hend with ⟨hne, rfl⟩ | ⟨hr, rfl⟩
    · exact ⟨fun hr => absurd hr hne, fun _ => hcount⟩
    · exact ⟨fun _ => congrArg (· + 1) hcount, fun hne => absurd hr hne⟩

/-- Settles O16: below MAX_SIGN the successor is a Word, so the addition does not wrap. -/
theorem nextPcAddsOne : Obligations.NextPcAddsOne := by
  intro pc h
  have hne : pc ≠ 0x7FFFFFFF#32 := by
    rintro rfl
    exact absurd h (by decide)
  have hlo := BitVec.le_toInt pc
  unfold maxSign at h
  rw [nextPc, if_neg hne, BitVec.toInt_add]
  exact Int.bmod_eq_of_le (by simp; omega) (by simp; omega)

end Sys2Proof.Machine
end

section
/-! Proofs of the statements of 20_memory.md: the device addresses (R57, R58), the cells no step writes (R51) and a word
stored where the next instruction is fetched (R67). -/

namespace Sys2Proof.Machine

/-! ### GET_VAL and STORE_VAL on the device addresses -/

@[simp] theorem State.dsRead_setDar (s : State) (a : Word) (i : Int) : (s.setDar a).dsRead i = s.dsRead i := rfl
@[simp] theorem State.dsRead_addTicks (s : State) (n : Nat) (i : Int) : (s.addTicks n).dsRead i = s.dsRead i := rfl

/-- A data read of the input address takes the head of IN, whatever it is (R57). -/
theorem State.memRead_inAddr_cons {s : State} {c : Word} {rest : List Word} (h : s.input = c :: rest) :
    s.memRead inAddr = .ok (c, s.setInput rest) := by
  simp [State.memRead, State.inputRead, h]

/-- A data read of the input address raises InputExhausted where IN is empty (R57). -/
theorem State.memRead_inAddr_nil {s : State} (h : s.input = []) : s.memRead inAddr = .error .inputExhausted := by
  simp [State.memRead, State.inputRead, h]

/-- A data write of the output address always succeeds (R58). -/
theorem State.memWrite_outAddr (s : State) (v : Word) : s.memWrite outAddr v = .ok (s.setOutput (s.output ++ [v])) := by
  simp [State.memWrite]

/-- GET_VAL where its data read raises a condition (R120). -/
theorem execGetVal_of_error {s : State} {a : Word} {c : Condition} (ha : s.tos = some a)
    (h : ((s.setDar a).addTicks 1).memRead a = .error c) :
    execGetVal s = .next (((s.setDar a).addTicks 1).raise c) := by
  simp [execGetVal, ha, h]

/-- GET_VAL where its data read gives a value (R120). -/
theorem execGetVal_of_ok {s u : State} {a v : Word} (ha : s.tos = some a)
    (h : ((s.setDar a).addTicks 1).memRead a = .ok (v, u)) :
    execGetVal s = .next (u.dsWrite u.sp v) := by
  simp [execGetVal, ha, h]

/-- STORE_VAL where its data write succeeds (R121). -/
theorem execStoreVal_of_ok {s u : State} {a : Word} (ha : s.sos = some a)
    (h : ((s.setDar a).addTicks 1).memWrite a (s.dsRead s.sp) = .ok u) :
    execStoreVal s = .next (u.setSp (u.sp - 2)) := by
  simp [execStoreVal, ha, h]

/-- A write of the operand stack in canonical form sets that index and no other. -/
theorem State.dsSet_of_write {s t : State} (hwf : Cells.wf s.ds = true) {i : Int} {v : Word}
    (h : t.ds = s.ds.write i.toNat v) : s.DsSet t i v := by
  rw [State.DsSet, State.dsRead, h]
  exact ⟨Cells.read_write_self hwf _ v, fun _ hj => Cells.read_write_ne s.ds v hj⟩

/-- Settles O27: the data read of the input address, with an empty queue and with a head code. -/
theorem getValPopsInput : Obligations.GetValPopsInput := by
  refine ⟨fun s hsp ha hin => ?exhausted, fun s c rest hl hsp ha hin => ?popped⟩
  case exhausted =>
    have htos : s.tos = some inAddr := State.tos_eq_some.2 ⟨hsp, ha⟩
    exact ⟨_, execGetVal_of_error htos (State.memRead_inAddr_nil hin), rfl⟩
  case popped =>
    have htos : s.tos = some inAddr := State.tos_eq_some.2 ⟨hsp, ha⟩
    obtain ⟨-, -, ⟨hwf, -⟩, -⟩ := hl
    exact ⟨_, execGetVal_of_ok htos (State.memRead_inAddr_cons hin), rfl, State.dsSet_of_write hwf rfl⟩

/-- Settles O30: the data write of the output address. -/
theorem storeValAppendsOutput : Obligations.StoreValAppendsOutput := fun _ hsp ha =>
  execStoreVal_of_ok (State.sos_eq_some.2 ⟨hsp, ha⟩) (State.memWrite_outAddr _ _)

/-! ### What a step leaves of memory and the parameters -/

/-- No step writes a parameter (00_scope.md R6, log 2). -/
theorem step_keeps_cfg {s t : State} (h : step s = .next t) : t.cfg = s.cfg := by
  obtain ⟨-, ⟨-, rfl⟩ | ⟨-, -, rfl⟩ | ⟨w, -, -, -, rfl⟩ | ⟨w, m, u, -, -, -, hu, hend⟩⟩ := step_cases h
  · rfl
  · rfl
  · rfl
  · have hcfg : u.cfg = (s.fetched w).cfg := exec_keeps_cfg hu
    rcases hend with ⟨-, rfl⟩ | ⟨-, rfl⟩ <;> exact hcfg

/-- A step writes at most one cell of memory, and no device address (R55, R56). -/
theorem step_mem {s t : State} (h : step s = .next t) :
    t.mem = s.mem ∨ ∃ a v, a ≠ inAddr ∧ a ≠ outAddr ∧ t.mem = s.mem.write a.toNat v := by
  obtain ⟨-, ⟨-, rfl⟩ | ⟨-, -, rfl⟩ | ⟨w, -, -, -, rfl⟩ | ⟨w, m, u, -, -, -, hu, hend⟩⟩ := step_cases h
  · exact .inl rfl
  · exact .inl rfl
  · exact .inl rfl
  · have hmem : u.mem = s.mem ∨ ∃ a v, a ≠ inAddr ∧ a ≠ outAddr ∧ u.mem = s.mem.write a.toNat v := by
      rcases exec_mem hu with he | ⟨-, a, v, -, hin, hout, -, he⟩
      · exact .inl he
      · exact .inr ⟨a, v, hin, hout, he⟩
    rcases hend with ⟨-, rfl⟩ | ⟨-, rfl⟩ <;> exact hmem

/-- The cells under the device addresses (R51): every address a data write reaches is at least 2. -/
theorem step_keeps_low_cell {s t : State} (h : step s = .next t) {b : Nat} (hb : b < 2) :
    t.mem.read b = s.mem.read b := by
  rcases step_mem h with he | ⟨a, v, hin, hout, he⟩ <;> rw [he]
  exact Cells.read_write_ne s.mem v (hb.trans_le (two_le_toNat hin hout)).ne

/-- Settles O49: the one cell a step can write is at 2 or above, and no step writes the parameters. -/
theorem stepKeepsLowCells : Obligations.StepKeepsLowCells := fun _ _ h =>
  ⟨step_keeps_low_cell h (by decide), step_keeps_low_cell h (by decide), step_keeps_cfg h⟩

/-! ### A word stored where the next instruction is fetched (R67) -/

/-- A machine that raised a condition, a fault among them, no longer runs (60_exceptions.md R201). -/
theorem State.raise_status_ne_running (s : State) (c : Condition) : (s.raise c).status ≠ .running :=
  Condition.status_ne_running c

/-- A step that leaves the machine running executed the whole instruction it fetched. -/
theorem step_completed {s t : State} (h : step s = .next t) (hr : t.status = .running) :
    ∃ w m u, s.memFetch s.pc = some w ∧ mnemonicOf s.cfg.opc w = some m ∧
      exec (Instr.ofMnemonic m ((s.fetched w).memFetch (s.fetched w).pc)) (s.fetched w) = .next u ∧
      u.status = .running ∧ t = (u.addTicks 1).countInstr := by
  obtain ⟨-, ⟨-, rfl⟩ | ⟨-, -, rfl⟩ | ⟨w, -, -, -, rfl⟩ | ⟨w, m, u, -, hw, hm, hu, hend⟩⟩ := step_cases h
  · exact absurd hr (State.raise_status_ne_running _ _)
  · exact absurd hr (State.raise_status_ne_running _ _)
  · exact absurd hr (State.raise_status_ne_running _ _)
  · rcases hend with ⟨hne, rfl⟩ | ⟨hu', rfl⟩
    · exact absurd hr hne
    · exact ⟨w, m, u, hw, hm, hu, hu', rfl⟩

/-- STORE_VAL that raises nothing, to an address other than the output's, wrote TOS in the existing cell SOS names. -/
theorem execStoreVal_mem_of_running {s u : State} (h : execStoreVal s = .next u) (hr : u.status = .running)
    (hout : s.dsRead (s.sp - 1) ≠ outAddr) :
    s.inMem (s.dsRead (s.sp - 1)) = true ∧ u.mem = s.mem.write (s.dsRead (s.sp - 1)).toNat (s.dsRead s.sp) := by
  rcases execStoreVal_cases h with ⟨-, rfl⟩ | ⟨-, c, -, rfl⟩ | ⟨-, v, hv, rfl⟩
  · exact absurd hr (State.raise_status_ne_running _ _)
  · exact absurd hr (State.raise_status_ne_running _ _)
  · rcases State.memWrite_ok hv with ⟨ha, -⟩ | ⟨-, -, hm, rfl⟩
    · exact absurd ha hout
    · exact ⟨hm, rfl⟩

/-- A step that fetches an opcode word loads it in IR, whatever comes of the instruction (40_control_flow.md R105). -/
theorem step_ir_of_memFetch {s t : State} {w : Word} (h : step s = .next t) (hb : s.budgetSpent = false)
    (hw : s.memFetch s.pc = some w) : t.ir = w := by
  obtain ⟨-, ⟨hspent, -⟩ | ⟨-, hnone, -⟩ | ⟨w', -, hw', -, rfl⟩ | ⟨w', m, u, -, hw', -, hu, hend⟩⟩ := step_cases h
  · simp [hb] at hspent
  · simp [hw] at hnone
  · exact Option.some.inj (hw'.symm.trans hw)
  · have hir : u.ir = w := (exec_keeps_ir hu).trans (Option.some.inj (hw'.symm.trans hw))
    rcases hend with ⟨-, rfl⟩ | ⟨-, rfl⟩ <;> exact hir

/-- A fetch from a cell of memory that was just written gives the word written (R53). -/
theorem State.memFetch_of_write {s t : State} {a v : Word} (hwf : Cells.wf s.mem = true) (ha : s.inMem a = true)
    (hcfg : t.cfg = s.cfg) (hmem : t.mem = s.mem.write a.toNat v) : t.memFetch a = some v := by
  have hin : t.inMem a = true := by rwa [State.inMem, hcfg]
  rw [State.memFetch, if_pos hin, hmem, Cells.read_write_self hwf]

/-- Settles O32: the completed STORE_VAL leaves TOS in the cell PC names, which the next step fetches. -/
theorem storedWordIsFetchedNext : Obligations.StoredWordIsFetchedNext := by
  intro s t u hl hopc hfetch _ hout _ hst hrun hpc hbudget htu
  obtain ⟨-, ⟨hwf, -⟩, -⟩ := hl
  obtain ⟨w, m, x, hw, hm, hx, hxrun, rfl⟩ := step_completed hst hrun
  obtain rfl : w = s.cfg.opc.code .STORE_VAL := Option.some.inj (hw.symm.trans hfetch)
  obtain rfl : m = .STORE_VAL := Option.some.inj (hm.symm.trans (mnemonicOf_code hopc _))
  obtain ⟨hin, hmem⟩ := execStoreVal_mem_of_running hx hxrun hout
  have hnext := State.memFetch_of_write hwf hin (step_keeps_cfg hst) hmem
  exact step_ir_of_memFetch htu hbudget (by rw [hpc]; exact hnext)

end Sys2Proof.Machine
end

section
/-! Proofs of the statements of 30_encoding.md: the instruction encoding and its decoder (R80 to R87), the machine's
answer to a word that is no opcode, and the binary image codec (R90 to R94). -/

namespace Sys2Proof.Laws.EncodedLength

/-- The law of this namespace holds of every instruction, one constructor each. -/
theorem statement_of_instr : ∀ i : Instr, Statement i
  | .hlt => hlt | .jmp o => jmp o | .jz o => jz o | .call o => call o | .ret => ret
  | .getVal => getVal | .storeVal => storeVal
  | .peek o => peek o | .push o => push o | .drop => drop | .pushr o => pushr o | .dropr => dropr
  | .add => add | .sub => sub | .mod => mod | .eq => eq | .or => or

end Sys2Proof.Laws.EncodedLength

namespace Sys2Proof

/-! ### The operand word -/

/-- The operand words of a well-formed instruction are all its Words but the first (R84). -/
theorem Instr.length_operand_of_wf {i : Instr} (h : i.wf = true) : i.operand.toList.length = i.mnemonic.words - 1 := by
  have hlen : (encode defaultOpc i).length = i.mnemonic.words := Laws.EncodedLength.statement_of_instr i h defaultOpc
  rw [← hlen, encode, List.length_cons, Nat.add_sub_cancel]

/-- The decoder takes as operand just the Words it skips: one or none after the opcode word (R81, R84). -/
theorem Instr.operand_ofMnemonic_head? (m : Mnemonic) (ws : List Word) :
    (Instr.ofMnemonic m ws.head?).operand.toList = ws.take (m.words - 1) := by
  cases m with
  | JMP | JZ | CALL | PUSH | PUSHR | PEEK => exact List.take_one.symm
  | _ => rfl

/-- An instruction is its mnemonic and its operand words. -/
theorem Instr.ext_of_mnemonic_operand {i j : Instr} (hm : i.mnemonic = j.mnemonic)
    (hw : i.operand.toList = j.operand.toList) : i = j := by
  have ho : i.operand = j.operand := by simpa only [Option.head?_toList] using congrArg List.head? hw
  rw [← Instr.ofMnemonic_self i, ← Instr.ofMnemonic_self j, hm, ho]

/-- A well-formed instruction is read back from its mnemonic and the Words that start with its operand. -/
theorem Instr.ofMnemonic_operand_append {i : Instr} (h : i.wf = true) (rest : List Word) :
    Instr.ofMnemonic i.mnemonic (i.operand.toList ++ rest).head? = i := by
  refine Instr.ext_of_mnemonic_operand (Instr.mnemonic_ofMnemonic _ _) ?_
  rw [Instr.operand_ofMnemonic_head?, List.take_left' (Instr.length_operand_of_wf h)]

/-! ### Decoding one opcode word (R83, R87) -/

theorem mnemonicOf_eq_some_iff {opc : OpcMap} (h : opc.Injective) {w : Word} {m : Mnemonic} :
    mnemonicOf opc w = some m ↔ opc.code m = w := by
  refine ⟨code_of_mnemonicOf, ?_⟩
  rintro rfl
  exact mnemonicOf_code h m

theorem decode_eq_ok_iff {opc : OpcMap} {w : Word} {next : Option Word} {i : Instr} :
    decode opc w next = .ok i ↔ ∃ m, mnemonicOf opc w = some m ∧ i = Instr.ofMnemonic m next := by
  rcases decode_cases opc w next with ⟨hm, hd⟩ | ⟨m, hm, hd⟩ <;> simp [hm, hd, eq_comm]

theorem decode_eq_illegalOpcode_iff {opc : OpcMap} {w : Word} {next : Option Word} :
    decode opc w next = .error (.illegalOpcode w) ↔ ∀ m, opc.code m ≠ w := by
  rw [← mnemonicOf_eq_none_iff]
  rcases decode_cases opc w next with ⟨hm, hd⟩ | ⟨m, hm, hd⟩ <;> simp [hm, hd]

/-! ### Decoding a list of Words (R80 to R84) -/

theorem decodeWords_cons_of_mnemonicOf {opc : OpcMap} {w : Word} {m : Mnemonic} (h : mnemonicOf opc w = some m)
    (ws : List Word) :
    decodeWords opc (w :: ws) = .ok (Instr.ofMnemonic m ws.head?, ws.drop (m.words - 1)) := by
  have hd : decode opc w ws.head? = .ok (Instr.ofMnemonic m ws.head?) := decode_eq_ok_iff.2 ⟨m, h, rfl⟩
  simp [decodeWords, hd]

theorem decodeWords_cons_of_illegal {opc : OpcMap} {w : Word} (h : ∀ m, opc.code m ≠ w) (ws : List Word) :
    decodeWords opc (w :: ws) = .error (.illegalOpcode w) := by
  simp [decodeWords, decode_eq_illegalOpcode_iff.2 h]

/-- Words that decode start with a code, and its mnemonic says what is decoded and what is left over. -/
theorem decodeWords_eq_ok {opc : OpcMap} {ws rest : List Word} {i : Instr} (h : decodeWords opc ws = .ok (i, rest)) :
    ∃ m tail, ws = opc.code m :: tail ∧ i = Instr.ofMnemonic m tail.head? ∧ rest = tail.drop (m.words - 1) := by
  cases ws with
  | nil => cases h
  | cons w tail =>
    cases hm : mnemonicOf opc w with
    | none => rw [decodeWords_cons_of_illegal (mnemonicOf_eq_none_iff.1 hm)] at h; cases h
    | some m =>
      rw [decodeWords_cons_of_mnemonicOf hm] at h
      cases h
      exact ⟨m, tail, by rw [code_of_mnemonicOf hm], rfl, rfl⟩

/-- Settles O6: the opcode word finds the mnemonic; its length separates the operand from the Words that follow. -/
theorem decodeEncodeAgree : Obligations.DecodeEncodeAgree := by
  intro opc i rest hopc hwf
  rw [encode, List.cons_append, decodeWords_cons_of_mnemonicOf (mnemonicOf_code hopc _),
    Instr.ofMnemonic_operand_append hwf, List.drop_left' (Instr.length_operand_of_wf hwf)]

/-- Settles O7: the Words taken as operand and the Words left over make up the Words after the opcode. -/
theorem encodeDecodeAgree : Obligations.EncodeDecodeAgree := by
  intro opc ws rest i h _
  obtain ⟨m, tail, rfl, rfl, rfl⟩ := decodeWords_eq_ok h
  rw [encode, Instr.mnemonic_ofMnemonic, Instr.operand_ofMnemonic_head?, List.cons_append, List.take_append_drop]

/-! ### The default OPC (R85, log 3) -/

/-- The default OPC numbers the mnemonics from 0 in the order of R1. -/
theorem defaultOpc_code_getElem : ∀ n : Fin 17, defaultOpc.code (Mnemonic.all[n]) = BitVec.ofNat 32 n := by decide

theorem toNat_defaultOpc_code_lt (m : Mnemonic) : (defaultOpc.code m).toNat < 17 := by cases m <;> decide

theorem exists_defaultOpc_code_iff {w : Word} : (∃ m, defaultOpc.code m = w) ↔ w.toNat < 17 := by
  constructor
  · rintro ⟨m, rfl⟩
    exact toNat_defaultOpc_code_lt m
  · intro h
    have hw : BitVec.ofNat 32 w.toNat = w := (BitVec.ofNat_toNat 32 w).trans (BitVec.setWidth_eq w)
    exact ⟨_, (defaultOpc_code_getElem ⟨w.toNat, h⟩).trans hw⟩

/-- Settles O9: a Word is a default code exactly when it is below 17. -/
theorem illegalWordsUnderDefault : Obligations.IllegalWordsUnderDefault := by
  intro w next
  constructor
  · rw [decode_eq_illegalOpcode_iff, ← not_exists, exists_defaultOpc_code_iff, Nat.not_lt]
  · intro h
    obtain ⟨m, rfl⟩ := exists_defaultOpc_code_iff.2 h
    exact ⟨_, decode_eq_ok_iff.2 ⟨m, mnemonicOf_code defaultOpc_injective m, rfl⟩⟩

/-- Settles O5: the first six are encodings (O6), and 17 is no default code. -/
theorem sampleWordsDecode : Obligations.SampleWordsDecode := by
  have roundTrip (i : Instr) (rest : List Word) (h : i.wf = true) :
      decodeWords defaultOpc (encode defaultOpc i ++ rest) = .ok (i, rest) :=
    decodeEncodeAgree defaultOpc i rest defaultOpc_injective h
  have illegal : ∀ m, defaultOpc.code m ≠ 17#32 := not_exists.1 (mt exists_defaultOpc_code_iff.1 (by decide))
  exact ⟨roundTrip .hlt [] rfl, roundTrip (.jz (some 16#32)) [] rfl, roundTrip .getVal [] rfl,
    roundTrip (.peek (some 1#32)) [8#32] rfl, roundTrip (.pushr (some 0xFFFFFFFF#32)) [] rfl, roundTrip .sub [] rfl,
    decodeWords_cons_of_illegal illegal []⟩

/-! ### The image codec (R91 to R93) -/

/-- The 4 bytes of a Word give it back (R93). -/
theorem wordOfBytes_of_toNat (w : Word) :
    wordOfBytes (BitVec.ofNat 8 w.toNat) (BitVec.ofNat 8 (w.toNat / 256)) (BitVec.ofNat 8 (w.toNat / 65536))
      (BitVec.ofNat 8 (w.toNat / 16777216)) = w := by
  apply BitVec.eq_of_toNat_eq
  simp only [wordOfBytes, BitVec.toNat_ofNat]
  omega

theorem toNat_wordOfBytes (b0 b1 b2 b3 : Byte) :
    (wordOfBytes b0 b1 b2 b3).toNat = b0.toNat + 256 * b1.toNat + 65536 * b2.toNat + 16777216 * b3.toNat := by
  simp only [wordOfBytes, BitVec.toNat_ofNat]
  omega

theorem encodeWord_wordOfBytes (b0 b1 b2 b3 : Byte) : encodeWord (wordOfBytes b0 b1 b2 b3) = [b0, b1, b2, b3] := by
  simp only [encodeWord, toNat_wordOfBytes, List.cons.injEq, and_true]
  refine ⟨?_, ?_, ?_, ?_⟩ <;> apply BitVec.eq_of_toNat_eq <;> simp only [BitVec.toNat_ofNat] <;> omega

@[simp] theorem length_encodeWord (w : Word) : (encodeWord w).length = 4 := rfl

@[simp] theorem encodeImage_nil : encodeImage [] = [] := rfl

@[simp] theorem encodeImage_cons (w : Word) (ws : List Word) : encodeImage (w :: ws) = encodeWord w ++ encodeImage ws :=
  rfl

theorem length_encodeImage (ws : List Word) : (encodeImage ws).length = 4 * ws.length := by
  induction ws with
  | nil => rfl
  | cons w ws ih => rw [encodeImage_cons, List.length_append, length_encodeWord, ih, List.length_cons]; omega

theorem decodeImage_encodeWord_append (w : Word) (bs : List Byte) :
    decodeImage (encodeWord w ++ bs) = (decodeImage bs).map (w :: ·) := by
  simp only [encodeWord, List.cons_append, List.nil_append, decodeImage, wordOfBytes_of_toNat]
  cases decodeImage bs <;> rfl

theorem decodeImage_encodeImage (ws : List Word) : decodeImage (encodeImage ws) = some ws := by
  induction ws with
  | nil => rfl
  | cons w ws ih => rw [encodeImage_cons, decodeImage_encodeWord_append, ih, Option.map_some]

/-- Bytes that decode are the encoding of the Words they give, so they are whole Words (R92, R94). -/
theorem encodeImage_of_decodeImage {bs : List Byte} {ws : List Word} (h : decodeImage bs = some ws) :
    encodeImage ws = bs := by
  induction bs using decodeImage.induct generalizing ws with
  | case1 => cases h; rfl
  | case2 b0 b1 b2 b3 rest hnone => simp [decodeImage, hnone] at h
  | case3 b0 b1 b2 b3 rest vs hsome ih =>
    obtain rfl : wordOfBytes b0 b1 b2 b3 :: vs = ws := by simpa [decodeImage, hsome] using h
    rw [encodeImage_cons, encodeWord_wordOfBytes, ih hsome]
    rfl
  | case4 bs hnil hcons => simp [decodeImage] at h

/-- Every byte string of whole Words is the encoding of some Words. -/
theorem exists_encodeImage_eq {n : Nat} {bs : List Byte} (h : bs.length = 4 * n) : ∃ ws, encodeImage ws = bs := by
  induction n generalizing bs with
  | zero => exact ⟨[], (List.length_eq_zero_iff.1 h).symm⟩
  | succ n ih =>
    match bs, h with
    | b0 :: b1 :: b2 :: b3 :: bs, h =>
      obtain ⟨ws, rfl⟩ := ih (bs := bs) (by simp only [List.length_cons] at h; omega)
      exact ⟨wordOfBytes b0 b1 b2 b3 :: ws, by rw [encodeImage_cons, encodeWord_wordOfBytes]; rfl⟩

/-- Settles O10: each half by the round trip of one Word, along the Words or along the chunks of 4 bytes. -/
theorem imageCodecRoundTrip : Obligations.ImageCodecRoundTrip := by
  refine ⟨decodeImage_encodeImage, fun bs h => ?_⟩
  obtain ⟨n, hn⟩ := Nat.dvd_of_mod_eq_zero h
  obtain ⟨ws, rfl⟩ := exists_encodeImage_eq hn
  exact ⟨ws, decodeImage_encodeImage ws, rfl⟩

/-- Byte `j` of Word `k` stands at `4 * k + j`. -/
theorem getElem?_encodeImage {ws : List Word} {k : Nat} {w : Word} (hw : ws[k]? = some w) {j : Nat} (hj : j < 4) :
    (encodeImage ws)[4 * k + j]? = (encodeWord w)[j]? := by
  induction ws generalizing k with
  | nil => simp at hw
  | cons v ws ih =>
    rw [encodeImage_cons]
    cases k with
    | zero =>
      obtain rfl : v = w := by simpa using hw
      rw [Nat.mul_zero, Nat.zero_add, List.getElem?_append_left hj]
    | succ k =>
      have hpos : 4 * (k + 1) + j = (encodeWord v).length + (4 * k + j) := by rw [length_encodeWord]; omega
      rw [hpos, List.getElem?_append_right (Nat.le_add_right _ _), Nat.add_sub_cancel_left]
      exact ih (by simpa using hw)

/-- Settles O11: the 4 bytes of each Word at their positions; the highest needs no remainder. -/
theorem imageBytesLittleEndian : Obligations.ImageBytesLittleEndian := by
  refine ⟨length_encodeImage, fun ws k w hw => ?_⟩
  have byte {j : Nat} (hj : j < 4) := getElem?_encodeImage hw hj
  have high : w.toNat / 16777216 % 256 = w.toNat / 16777216 := by omega
  exact ⟨_, _, _, _, byte (j := 0) (by decide), byte (j := 1) (by decide), byte (j := 2) (by decide),
    byte (j := 3) (by decide), BitVec.toNat_ofNat _ _, BitVec.toNat_ofNat _ _, BitVec.toNat_ofNat _ _,
    (BitVec.toNat_ofNat _ _).trans high⟩

end Sys2Proof

namespace Sys2Proof.Machine

/-! ### The machine on a word that cannot be fetched or decoded (R83, R94) -/

theorem beginStep_of_running {s : State} (hr : s.status = .running) (hb : s.budgetSpent = false) :
    beginStep s = fetchDecode s := by
  simp [beginStep, hr, hb]

/-- A fetch outside memory raises FetchOutOfRange with nothing done (R53). -/
theorem step_of_memFetch_none {s : State} (hr : s.status = .running) (hb : s.budgetSpent = false)
    (h : s.memFetch s.pc = none) : step s = .next (s.fault (.fetchOutOfRange s.pc)) := by
  simp [step, beginStep_of_running hr hb, fetchDecode, h]

/-- A fetched word that is no code raises IllegalOpcode after the fetch (R83, R87). -/
theorem step_of_illegal_word {s : State} {w : Word} (hr : s.status = .running) (hb : s.budgetSpent = false)
    (hw : s.memFetch s.pc = some w) (h : ∀ m, s.cfg.opc.code m ≠ w) :
    step s = .next ((s.fetched w).fault (.illegalOpcode w)) := by
  simp [step, beginStep_of_running hr hb, fetchDecode, hw, decode_eq_illegalOpcode_iff.2 h]

/-- Settles O8: what `decode` answers for each mnemonic and for none, then the step on a word with none. -/
theorem decodeIsExactMatch : Obligations.DecodeIsExactMatch := by
  refine fun opc w next hopc => ⟨fun i => ?ok, decode_eq_illegalOpcode_iff.symm, ?machine⟩
  case ok => simp only [decode_eq_ok_iff, mnemonicOf_eq_some_iff hopc]
  case machine =>
    rintro s rfl hr hb hw h
    exact ⟨_, step_of_illegal_word hr hb hw h, rfl, rfl⟩

/-- A file with a partial Word at its end is no image (R94). -/
theorem State.loadBytes_of_partial {bytes : List Byte} (h : bytes.length % 4 ≠ 0) (cfg : Config) (codes : List Word) :
    State.loadBytes cfg bytes codes = none := by
  cases hd : decodeImage bytes with
  | none => simp [State.loadBytes, hd]
  | some image =>
    have hlen : bytes.length = 4 * image.length := by rw [← encodeImage_of_decodeImage hd, length_encodeImage]
    exact absurd (hlen ▸ Nat.mul_mod_right 4 _) h

/-- Settles O4: an image of one word has no cell by default, so its entry address names none. -/
theorem imageFileRefusals : Obligations.ImageFileRefusals := by
  refine ⟨fun cfg bytes codes h => ?refused, fun entry codes => ?oneWord⟩
  case refused =>
    rcases h with hpartial | hempty
    · exact State.loadBytes_of_partial hpartial cfg codes
    · obtain rfl := List.length_eq_zero_iff.1 hempty
      rfl
  case oneWord =>
    have hmem : State.memFetch { State.reset with pc := entry, input := codes } entry = none := by
      rw [State.memFetch, if_neg]
      simp [State.inMem, State.reset, defaultConfig]
    exact ⟨_, rfl, _, step_of_memFetch_none rfl rfl hmem, rfl, rfl⟩

end Sys2Proof.Machine
end

section
/-! Proofs of the statements of 40_control_flow.md: the cycle around a decoded instruction (R105), each control-flow
instruction's completion (R100 to R104), the calling convention (R108) and the tick cost (R107). -/

namespace Sys2Proof.Machine

/-! ### The step around a decoded instruction (R105) -/

/-- The code of a mnemonic decodes to its instruction, the map being injective (R83). -/
theorem decode_code {opc : OpcMap} (h : opc.Injective) (m : Mnemonic) (next : Option Word) :
    decode opc (opc.code m) next = .ok (Instr.ofMnemonic m next) :=
  decode_eq_ok_iff.2 ⟨m, mnemonicOf_code h m, rfl⟩

theorem endStep_of_running {t : State} (h : t.status = .running) :
    endStep (.next t) = .next (t.addTicks 1).countInstr := if_pos h

theorem endStep_of_not_running {t : State} (h : t.status ≠ .running) : endStep (.next t) = .next t := if_neg h

/-- A raise in the execute phase ends the step there (R201). -/
theorem endStep_raise (s : State) (c : Condition) : endStep (.next (s.raise c)) = .next (s.raise c) :=
  endStep_of_not_running (State.raise_status_ne_running s c)

/-- The fetch writes neither memory nor MEM_SIZE, so the operand word can be read before it. -/
theorem State.memFetch_fetched (s : State) (w a : Word) : (s.fetched w).memFetch a = s.memFetch a := rfl

/-- Words that decode are executed from the state after the fetch (R105). -/
theorem step_of_decode {s : State} {w : Word} {i : Instr} (hr : s.status = .running) (hb : s.budgetSpent = false)
    (hw : s.memFetch s.pc = some w) (hd : decode s.cfg.opc w (s.memFetch (nextPc s.pc)) = .ok i) :
    step s = endStep (exec i (s.fetched w)) := by
  have hd' : decode s.cfg.opc w ((s.fetched w).memFetch (s.fetched w).pc) = .ok i := hd
  simp [step, beginStep_of_running hr hb, fetchDecode, hw, hd']

/-- A code at PC runs its mnemonic's instruction, with the word of the next cell as its operand (R82, R105). -/
theorem step_of_code {s : State} {m : Mnemonic} (hr : s.status = .running) (hb : s.budgetSpent = false)
    (hopc : s.cfg.opc.Injective) (hw : s.memFetch s.pc = some (s.cfg.opc.code m)) :
    step s = endStep (exec (Instr.ofMnemonic m (s.memFetch (nextPc s.pc))) (s.fetched (s.cfg.opc.code m))) :=
  step_of_decode hr hb hw (decode_code hopc m _)

/-- Settles O12: the two ways a step ends after the execute phase. -/
theorem stepRunsDecodedInstruction : Obligations.StepRunsDecodedInstruction := by
  intro s t w i hr hb hw hd ht
  have hstep : step s = endStep (.next t) := (step_of_decode hr hb hw hd).trans (congrArg endStep ht)
  exact ⟨fun h => hstep.trans (endStep_of_running h), fun h => hstep.trans (endStep_of_not_running h)⟩

/-! ### HLT, JMP, RET and JZ (R100 to R102, R104) -/

/-- Settles O17: HLT's raise ends the step, and a halted machine takes none. -/
theorem hltHalts : Obligations.HltHalts := by
  refine ⟨fun s => rfl, fun s hr hb hopc hw => ⟨(s.fetched (s.cfg.opc.code .HLT)).raise .halt, ?_, rfl, ?_⟩⟩
  · exact (step_of_code hr hb hopc hw).trans (endStep_raise _ .halt)
  · exact step_of_not_running (State.raise_status_ne_running _ .halt)

theorem State.memFetch_eq_none {s : State} {a : Word} (h : s.inMem a = false) : s.memFetch a = none := by
  simp [State.memFetch, h]

/-- Settles O18: the step on JMP's code with and without an operand cell, and the fetch at a target outside memory. -/
theorem jmpCompletes : Obligations.JmpCompletes := by
  refine ⟨fun s target => rfl, fun s hr hb hopc hw => ?_⟩
  have hstep := step_of_code hr hb hopc hw
  refine ⟨fun hnone => ?missing, fun target ht => ?completed⟩
  case missing =>
    rw [hnone] at hstep
    exact ⟨_, hstep.trans (endStep_raise _ _), rfl, rfl⟩
  case completed =>
    rw [ht] at hstep
    refine ⟨_, hstep.trans (endStep_of_running hr), rfl, fun hout hbudget => ?_⟩
    exact ⟨_, step_of_memFetch_none hr hbudget (State.memFetch_eq_none hout), rfl, rfl⟩

theorem execRet_of_nonneg {s : State} (h : 0 ≤ s.rsp) :
    execRet s = .next (((s.setPc (s.rsRead s.rsp)).setRsp (s.rsp - 1)).addTicks 1) := by
  simp [execRet, h.not_gt]

theorem execJz_of_zero {s : State} (hsp : 0 ≤ s.sp) (hz : s.dsRead s.sp = 0#32) (target : Word) :
    execJz (some target) s = .next (((s.setPc target).setSp (s.sp - 1)).addTicks 1) := by
  simp [execJz, State.zeroFlag_of_nonneg hsp, hz]

theorem execJz_of_ne_zero {s : State} (hsp : 0 ≤ s.sp) (hz : s.dsRead s.sp ≠ 0#32) (o : Option Word) :
    execJz o s = .next ((s.advancePc.setSp (s.sp - 1)).addTicks 1) := by
  simp [execJz, State.zeroFlag_of_nonneg hsp, hz]

/-- Settles O19. -/
theorem retCompletes : Obligations.RetCompletes := fun _ => execRet_of_nonneg

/-- Settles O20: the branch taken and not taken. -/
theorem jzCompletes : Obligations.JzCompletes := by
  refine fun s o hsp => ⟨?taken, fun hz => execJz_of_ne_zero hsp hz o⟩
  rintro target rfl hz
  exact execJz_of_zero hsp hz target

/-! ### The return stack's push, which CALL and PUSHR share (R103, R134) -/

/-- `s` with `v` pushed on its return stack. -/
def State.rsPush (s : State) (v : Word) : State := (s.setRsp (s.rsp + 1)).rsWrite (s.rsp + 1) v

theorem State.rsFull_eq_false_iff {s : State} : s.rsFull = false ↔ s.rsp < (s.cfg.rstackCap : Int) - 1 := by
  simp [State.rsFull, lt_sub_iff_add_lt]

theorem State.dsFull_eq_false_iff {s : State} : s.dsFull = false ↔ s.sp < (s.cfg.dstackCap : Int) - 1 := by
  simp [State.dsFull, lt_sub_iff_add_lt]

/-- A push in canonical form sets the new top and no other cell. -/
theorem State.rsSet_rsPush {s : State} (hwf : Cells.wf s.rs = true) (v : Word) : s.RsSet (s.rsPush v) (s.rsp + 1) v :=
  ⟨Cells.read_write_self hwf _ v, fun _ hj => Cells.read_write_ne s.rs v hj⟩

theorem State.rsRead_rsPush_top {s : State} (hwf : Cells.wf s.rs = true) (v : Word) :
    (s.rsPush v).rsRead (s.rsp + 1) = v :=
  Cells.read_write_self hwf _ v

/-- A push keeps the live cells. -/
theorem State.rsRead_rsPush_live {s : State} (v : Word) {j : Int} (hj : 0 ≤ j) (hlive : j ≤ s.rsp) :
    (s.rsPush v).rsRead j = s.rsRead j :=
  Cells.read_write_ne s.rs v (by omega)

theorem execCall_of_room {s : State} (h : s.rsp < (s.cfg.rstackCap : Int) - 1) (target : Word) :
    execCall (some target) s = .next (((s.rsPush (nextPc s.pc)).setPc target).addTicks 2) := by
  simp only [execCall, State.rsFull_eq_false_iff.2 h]
  rfl

theorem execPushr_of_room {s : State} (h : s.rsp < (s.cfg.rstackCap : Int) - 1) (v : Word) :
    execPushr (some v) s = .next ((s.rsPush v).advancePc.addTicks 1) := by
  simp only [execPushr, State.rsFull_eq_false_iff.2 h]
  rfl

/-- A CALL that raises nothing pushed the address after its operand (R103). -/
theorem execCall_of_running {s t : State} {target : Word} (h : execCall (some target) s = .next t)
    (hr : t.status = .running) : t = ((s.rsPush (nextPc s.pc)).setPc target).addTicks 2 := by
  rcases execCall_cases h with ⟨-, rfl⟩ | ⟨-, ho, -⟩ | ⟨-, a, ha, rfl⟩
  · exact absurd hr (State.raise_status_ne_running _ _)
  · cases ho
  · cases ha; rfl

/-- Settles O21: the state CALL leaves is its push, transferred to the target. -/
theorem callCompletes : Obligations.CallCompletes := by
  intro s target ⟨_, _, _, hwf, _⟩ hroom
  exact ⟨_, execCall_of_room hroom target, rfl, State.rsSet_rsPush hwf _⟩

/-- Settles O22: RET reads the one cell and the depth that CALL's push determines. -/
theorem retReturnsAfterCall : Obligations.RetReturnsAfterCall := by
  intro s t u v target ⟨⟨_, _, hrsp, _⟩, _, _, hwf, _⟩ hcall hts hs hdepth htop hret
  obtain rfl := execCall_of_running hcall (hts.trans hs)
  have hdepth : u.rsp = s.rsp + 1 := hdepth
  have htop : u.rsRead u.rsp = nextPc s.pc := htop.trans (State.rsRead_rsPush_top hwf _)
  rcases execRet_cases hret with ⟨hneg, -⟩ | ⟨-, rfl⟩
  · omega
  · exact ⟨htop, by simp [hdepth], rfl⟩

/-! ### The calling convention (R108) -/

theorem execDropr_of_nonneg {s : State} (h : 0 ≤ s.rsp) :
    execDropr s = .next ((s.setRsp (s.rsp - 1)).addTicks s.cfg.dropTicks) := by
  simp [execDropr, h.not_gt]

/-- PEEK of a live offset copies the return-stack cell that many below the top to the new top (R131). -/
theorem exec_peek_of_live {s : State} {k : Word} (hl : s.Legal) (hroom : s.sp < (s.cfg.dstackCap : Int) - 1)
    (hk : 0 ≤ k.toInt) (hlive : k.toInt ≤ s.rsp) :
    ∃ t, exec (.peek (some k)) s = .next t ∧
      t = { s with ds := t.ds, sp := s.sp + 1, pc := nextPc s.pc, tick := s.tick + 1 } ∧
      s.DsSet t (s.sp + 1) (s.rsRead (s.rsp - k.toInt)) := by
  obtain ⟨_, _, ⟨hwf, _⟩, _⟩ := hl
  have hdead : ¬ (k.toInt < 0 ∨ s.rsp < k.toInt) := by omega
  have hexec : exec (.peek (some k)) s =
      .next (((s.setSp (s.sp + 1)).addTicks 1).dsWrite (s.sp + 1) (s.rsRead (s.rsp - k.toInt))).advancePc := by
    simp [exec, execPeek, State.dsFull_eq_false_iff.2 hroom, hdead]
  exact ⟨_, hexec, rfl, State.dsSet_of_write hwf rfl⟩

/-- PUSHR of an argument and then CALL leave the return address over the argument, and the cells below as they were. -/
theorem exec_pushr_call {s : State} (hl : s.Legal) (hroom : s.rsp + 2 < (s.cfg.rstackCap : Int)) (arg target : Word) :
    ∃ s1 s2, exec (.pushr (some arg)) s = .next s1 ∧ exec (.call (some target)) s1 = .next s2 ∧
      s2 = { s with pc := target, rs := s2.rs, rsp := s.rsp + 1 + 1, tick := s2.tick } ∧
      s2.rsRead (s.rsp + 1 + 1) = nextPc s1.pc ∧ s2.rsRead (s.rsp + 1) = arg ∧
      ∀ j : Int, 0 ≤ j → j ≤ s.rsp → s2.rsRead j = s.rsRead j := by
  obtain ⟨⟨_, _, hrsp, _⟩, _, _, hwf, _⟩ := hl
  have hroom0 : s.rsp < (s.cfg.rstackCap : Int) - 1 := by omega
  have hroom1 : s.rsp + 1 < (s.cfg.rstackCap : Int) - 1 := by omega
  have hwf1 : Cells.wf (s.rsPush arg).rs = true := Cells.wf_write hwf _ arg
  have live (ret : Word) {j : Int} (hj : 0 ≤ j) (hle : j ≤ s.rsp + 1) :
      ((s.rsPush arg).rsPush ret).rsRead j = (s.rsPush arg).rsRead j :=
    State.rsRead_rsPush_live ret hj hle
  refine ⟨_, _, execPushr_of_room hroom0 arg, execCall_of_room hroom1 target, rfl, State.rsRead_rsPush_top hwf1 _,
    (live _ (by omega) le_rfl).trans (State.rsRead_rsPush_top hwf arg), fun j hj hle => ?_⟩
  exact (live _ hj (by omega)).trans (State.rsRead_rsPush_live arg hj hle)

/-- Settles O23: after PUSHR and CALL, PEEK 1 reads the argument under the top, RET takes the return address from the top,
and RET and DROPR drop the two. -/
theorem callingConvention : Obligations.CallingConvention := by
  intro s arg target hl hrroom hdroom
  have ⟨⟨_, _, hrsp, _⟩, _⟩ := hl
  obtain ⟨s1, s2, hpushr, hcall, hs2, hret, harg, hlive⟩ := exec_pushr_call hl hrroom arg target
  have hl2 : s2.Legal := exec_keeps_legal hcall (exec_keeps_legal hpushr hl)
  have hsp2 : s2.sp = s.sp := by rw [hs2]
  have hrsp2 : s2.rsp = s.rsp + 1 + 1 := by rw [hs2]
  have hcfg2 : s2.cfg = s.cfg := by rw [hs2]
  have hone : (1#32 : Word).toInt = 1 := rfl
  have hunder : s2.rsp - (1#32 : Word).toInt = s.rsp + 1 := by omega
  obtain ⟨s3, hpeek, hs3, htop, -⟩ := exec_peek_of_live (k := 1#32) hl2 (by rw [hcfg2]; omega) (by decide) (by omega)
  have hsp3 : s3.sp = s.sp + 1 := by rw [hs3, ← hsp2]
  have hrsp3 : s3.rsp = s.rsp + 1 + 1 := by rw [hs3, ← hrsp2]
  have hrs3 : s3.rsRead = s2.rsRead := by rw [hs3]; rfl
  have hstatus3 : s3.status = s.status := by rw [hs3, hs2]
  refine ⟨s1, s2, s3, _, _, hpushr, hcall, by rw [hs2], hpeek, hsp3, ?argument, execRet_of_nonneg (by omega), ?returned,
    execDropr_of_nonneg ?nonempty, ?depth, hsp3, hstatus3, fun j hj hle => ?cells⟩
  case argument => rw [hsp3, ← hsp2, htop, hunder, harg]
  case returned => simp [hrs3, hrsp3, hret]
  case nonempty => simp; omega
  case depth => simp; omega
  case cells => exact (congrFun hrs3 j).trans (hlive j hj hle)

/-! ### The tick cost (R107) -/

/-- An execute phase that raises nothing costs the ticks of its rule, which are all but the fetch and the trailing tick: in
each outcome either a condition was raised, against `hr`, or the ticks are those of the completing path. -/
theorem exec_tick_of_running {i : Instr} {s t : State} (h : exec i s = .next t) (hr : t.status = .running) :
    t.tick + 2 = s.tick + tickCost s.cfg i := by
  cases i with
  | hlt => rcases execHlt_cases h with rfl; exact absurd hr (State.raise_status_ne_running _ _)
  | jmp o => rcases execJmp_cases h with ⟨-, rfl⟩ | ⟨a, -, rfl⟩ <;> simp [tickCost] at hr ⊢
  | jz o =>
    rcases execJz_cases h with ⟨-, rfl⟩ | ⟨-, -, -, rfl⟩ | ⟨-, -, a, -, rfl⟩ | ⟨-, -, rfl⟩ <;> simp [tickCost] at hr ⊢
  | call o =>
    rcases execCall_cases h with ⟨-, rfl⟩ | ⟨-, -, rfl⟩ | ⟨-, a, -, rfl⟩ <;> simp [tickCost] at hr ⊢
  | ret => rcases execRet_cases h with ⟨-, rfl⟩ | ⟨-, rfl⟩ <;> simp [tickCost] at hr ⊢
  | getVal =>
    rcases execGetVal_outcomes h with rfl | ⟨c, rfl⟩ | ⟨-, -, v, rest, -, rfl⟩ | ⟨-, v, rfl⟩ <;>
      simp [tickCost] at hr ⊢
  | storeVal =>
    rcases execStoreVal_outcomes h with rfl | ⟨c, rfl⟩ | ⟨-, -, v, rfl⟩ | ⟨-, a, v, -, -, -, -, rfl⟩ <;>
      simp [tickCost] at hr ⊢
  | peek o =>
    rcases execPeek_cases h with ⟨-, rfl⟩ | ⟨-, -, rfl⟩ | ⟨-, k, -, -, rfl⟩ | ⟨-, k, -, -, -, rfl⟩ <;>
      simp [tickCost] at hr ⊢
  | push o => rcases execPush_cases h with ⟨-, rfl⟩ | ⟨-, -, rfl⟩ | ⟨-, v, -, rfl⟩ <;> simp [tickCost] at hr ⊢
  | pushr o => rcases execPushr_cases h with ⟨-, rfl⟩ | ⟨-, -, rfl⟩ | ⟨-, v, -, rfl⟩ <;> simp [tickCost] at hr ⊢
  | drop => rcases execDrop_cases h with ⟨-, rfl⟩ | ⟨-, rfl⟩ <;> simp [tickCost] at hr ⊢; omega
  | dropr => rcases execDropr_cases h with ⟨-, rfl⟩ | ⟨-, rfl⟩ <;> simp [tickCost] at hr ⊢; omega
  | add | sub | mod | eq | or =>
    rcases exec_arithmetic_outcomes (by decide) h with rfl | ⟨c, rfl⟩ | ⟨-, v, rfl⟩ <;> simp [tickCost] at hr ⊢

/-- Settles O53: the fetch tick, the execute phase and, unless it raised a condition, the trailing tick. -/
theorem tickCostOfCompleted : Obligations.TickCostOfCompleted := by
  intro s t w i hr hb hw hd ht
  obtain ⟨u, hu⟩ := exec_answers i (s.fetched w)
  rw [step_of_decode hr hb hw hd, hu] at ht
  refine ⟨fun hrun => ?completed, ?halted⟩
  case completed =>
    by_cases hur : u.status = .running
    · rw [endStep_of_running hur] at ht
      cases ht
      have hcost : u.tick + 2 = s.tick + 1 + tickCost s.cfg i := exec_tick_of_running hu hur
      simp only [State.countInstr_tick, State.addTicks_tick]
      omega
    · rw [endStep_of_not_running hur] at ht
      cases ht
      exact absurd hrun hur
  case halted =>
    rintro rfl
    rcases execHlt_cases hu with rfl
    rw [endStep_raise] at ht
    cases ht
    rfl

end Sys2Proof.Machine
end

section
/-! Proofs of the statements of 41_memory_access.md: GET_VAL and STORE_VAL of a memory cell (R120, R121), GET_VAL of an
exhausted input, and the frame of STORE_VAL. -/

namespace Sys2Proof.Machine

/-! ### Data accesses to a memory cell (20_memory.md R54, R55) -/

/-- A data read of an existing cell that is no device gives the cell and changes nothing. -/
theorem State.memRead_of_inMem {s : State} {a : Word} (hin : a ≠ inAddr) (hout : a ≠ outAddr) (hm : s.inMem a = true) :
    s.memRead a = .ok (s.mem.read a.toNat, s) := by
  rw [State.memRead, if_neg hin, if_neg hout, if_pos hm]

/-- A data write to an existing cell that is no device writes that cell. -/
theorem State.memWrite_of_inMem {s : State} {a : Word} (hin : a ≠ inAddr) (hout : a ≠ outAddr) (hm : s.inMem a = true)
    (v : Word) : s.memWrite a v = .ok (s.setMem (s.mem.write a.toNat v)) := by
  rw [State.memWrite, if_neg hout, if_neg hin, if_pos hm]

/-- A write of memory in canonical form sets that cell and no other. -/
theorem State.memSet_of_write {s t : State} (hwf : Cells.wf s.mem = true) {a : Nat} {v : Word}
    (h : t.mem = s.mem.write a v) : s.MemSet t a v := by
  rw [State.MemSet, h]
  exact ⟨Cells.read_write_self hwf a v, fun _ hb => Cells.read_write_ne s.mem v hb⟩

/-- Settles O26: the data read of a cell, its value written over the address. -/
theorem getValLoadsCell : Obligations.GetValLoadsCell := by
  intro s a hl hsp ha hin hout hlo hhi
  obtain ⟨-, -, ⟨hwf, -⟩, -⟩ := hl
  have htos : s.tos = some a := State.tos_eq_some.2 ⟨hsp, ha⟩
  have hm : ((s.setDar a).addTicks 1).inMem a = true := State.inMem_iff.2 ⟨hlo, hhi⟩
  exact ⟨_, execGetVal_of_ok htos (State.memRead_of_inMem hin hout hm), rfl, State.dsSet_of_write hwf rfl⟩

/-- Settles O28: the data read raises InputExhausted after DAR is latched and the access tick counted. -/
theorem getValInputExhausted : Obligations.GetValInputExhausted := fun _ hsp ha hinput =>
  execGetVal_of_error (State.tos_eq_some.2 ⟨hsp, ha⟩) (State.memRead_inAddr_nil hinput)

/-- Settles O29: the data write of a cell, both operands popped. -/
theorem storeValWritesCell : Obligations.StoreValWritesCell := by
  intro s a hl hsp ha hin hout hlo hhi
  obtain ⟨-, ⟨hwf, -⟩, -⟩ := hl
  have hsos : s.sos = some a := State.sos_eq_some.2 ⟨hsp, ha⟩
  have hm : ((s.setDar a).addTicks 1).inMem a = true := State.inMem_iff.2 ⟨hlo, hhi⟩
  exact ⟨_, execStoreVal_of_ok hsos (State.memWrite_of_inMem hin hout hm _), rfl, State.memSet_of_write hwf rfl⟩

/-! ### The frame of STORE_VAL (R121) -/

/-- Every condition a data write raises is a fault: only a data read ends a run otherwise (R203). -/
theorem State.memWrite_error_fault {s : State} {a v : Word} {c : Condition} (h : s.memWrite a v = .error c) :
    ∃ k, c = .fault k := by
  rcases State.memWrite_error h with ⟨-, hc⟩ | ⟨-, -, -, hc⟩ <;> exact ⟨_, hc⟩

/-- A STORE_VAL that does not fault completes, and STATUS is kept. -/
theorem execStoreVal_keeps_status {s t : State} (h : execStoreVal s = .next t) (hf : t.isFaulted = false) :
    t.status = s.status := by
  rcases execStoreVal_cases h with ⟨-, rfl⟩ | ⟨-, c, hc, rfl⟩ | ⟨-, u, hu, rfl⟩
  · cases hf
  · obtain ⟨k, rfl⟩ := State.memWrite_error_fault hc
    cases hf
  · rcases State.memWrite_ok hu with ⟨-, rfl⟩ | ⟨-, -, -, rfl⟩ <;> rfl

/-- Settles O44: R20's column for STORE_VAL with STATUS kept, and what it can do to memory and to OUT. -/
theorem frameStoreVal : Obligations.FrameStoreVal := by
  intro s t h hf _
  refine ⟨?others, fun a ha => ⟨fun b hb => ?cells, fun hout b => ?device, fun hout => ?output⟩⟩
  case others =>
    calc t = s.overwrittenBy t .STORE_VAL := exec_frame h
      _ = _ := by rw [State.overwrittenBy, execStoreVal_keeps_status h hf]
  case cells =>
    rcases exec_mem h with hmem | ⟨-, a', v, ha', -, -, -, hmem⟩ <;> rw [hmem]
    obtain rfl : a' = a := Option.some.inj (ha'.symm.trans ha)
    exact Cells.read_write_ne s.mem v hb
  case device =>
    rcases exec_mem h with hmem | ⟨-, a', v, ha', -, hne, -, -⟩
    · rw [hmem]
    · exact absurd ((Option.some.inj (ha'.symm.trans ha)).trans hout) hne
  case output =>
    rcases exec_output h with ho | ⟨-, ha', -⟩
    · exact ho
    · exact absurd (Option.some.inj (ha.symm.trans ha')) hout

end Sys2Proof.Machine
end

section
/-! Proofs of the statements of 42_stack.md: PUSH and PUSHR (R132, R134), PEEK (R131), DROP and DROPR (R133, R135). -/

namespace Sys2Proof.Machine

/-! ### The operand stack's own instructions on a stack they fit (their return-stack twins stand with the calling
convention) -/

theorem execPush_of_room {s : State} (h : s.sp < (s.cfg.dstackCap : Int) - 1) (v : Word) :
    execPush (some v) s = .next (((s.setSp (s.sp + 1)).addTicks 1).dsWrite (s.sp + 1) v).advancePc := by
  simp only [execPush, State.dsFull_eq_false_iff.2 h]
  rfl

theorem execDrop_of_nonneg {s : State} (h : 0 ≤ s.sp) :
    execDrop s = .next ((s.setSp (s.sp - 1)).addTicks s.cfg.dropTicks) := by
  simp [execDrop, h.not_gt]

/-- Settles O33: each push writes the canonical stack at its new top. -/
theorem pushesComplete : Obligations.PushesComplete := by
  intro s imm hl
  obtain ⟨-, -, ⟨hds, -⟩, hrs, -⟩ := hl
  refine ⟨fun hroom => ?push, fun hroom => ?pushr⟩
  case push => exact ⟨_, execPush_of_room hroom imm, rfl, State.dsSet_of_write hds rfl⟩
  case pushr => exact ⟨_, execPushr_of_room hroom imm, rfl, State.rsSet_rsPush hrs imm⟩

/-- Settles O34: the index check passes at a live offset, and the cell there is pushed. -/
theorem peekCompletes : Obligations.PeekCompletes := fun _ _ => exec_peek_of_live

/-- Settles O36: with a value to drop neither instruction faults. -/
theorem dropsComplete : Obligations.DropsComplete := fun _ => ⟨execDrop_of_nonneg, execDropr_of_nonneg⟩

end Sys2Proof.Machine
end

section
/-! Proofs of the statements of 43_alu.md: ADD and SUB (R152, R153), MOD (R154), EQ (R155), OR (R156). -/

namespace Sys2Proof.Machine

/-! ### The common micro-sequence (R151) -/

theorem execAlu_of_ok {op : AluOp} {s : State} {r : Int} (hs : 1 ≤ s.sp)
    (h : alu s.cfg op (s.dsRead (s.sp - 1)) (s.dsRead s.sp) = .ok r) :
    execAlu op s = .next (((s.addTicks 1).dsWrite (s.sp - 1) (toWord (wrap r))).setSp (s.sp - 1)) := by
  simp [execAlu, State.sos_of_pos hs, h]

theorem execAlu_of_error {op : AluOp} {s : State} {c : Condition} (hs : 1 ≤ s.sp)
    (h : alu s.cfg op (s.dsRead (s.sp - 1)) (s.dsRead s.sp) = .error c) : execAlu op s = .next (s.raise c) := by
  simp [execAlu, State.sos_of_pos hs, h]

/-- An ALU result replaces SOS as its Word, with TOS dropped and the access tick counted. -/
theorem execAlu_completes {op : AluOp} {s : State} {r : Int} (hl : s.Legal) (hs : 1 ≤ s.sp)
    (h : alu s.cfg op (s.dsRead (s.sp - 1)) (s.dsRead s.sp) = .ok r) :
    ∃ t, execAlu op s = .next t ∧ t = { s with ds := t.ds, sp := s.sp - 1, tick := s.tick + 1 } ∧
      s.DsSet t (s.sp - 1) (toWord r) := by
  obtain ⟨-, -, ⟨hwf, -⟩, -⟩ := hl
  rw [← toWord_wrap r]
  exact ⟨_, execAlu_of_ok hs h, rfl, State.dsSet_of_write hwf rfl⟩

/-! ### Words and their signed values (00_scope.md R5, R7) -/

/-- A Word is the Word of its signed value. -/
@[simp] theorem toWord_toInt (w : Word) : toWord w.toInt = w := BitVec.ofInt_toInt

theorem toWord_toInt_add (l r : Word) : toWord (l.toInt + r.toInt) = l + r := by
  simp [toWord, BitVec.ofInt_add]

theorem toWord_toInt_sub (l r : Word) : toWord (l.toInt - r.toInt) = l - r := by
  simp [toWord, sub_eq_add_neg, BitVec.ofInt_add, BitVec.ofInt_neg]

theorem toInt_inRange (w : Word) : minSign ≤ w.toInt ∧ w.toInt ≤ maxSign :=
  ⟨BitVec.le_toInt w, Int.le_of_lt_add_one BitVec.toInt_lt⟩

/-- The sum of two Words is at most one RANGE outside the Word range. -/
theorem toInt_toWord_add (l r : Word) : (toWord (l.toInt + r.toInt)).toInt = wrap (l.toInt + r.toInt) := by
  have hl := toInt_inRange l
  have hr := toInt_inRange r
  apply toInt_toWord_eq_wrap <;> unfold minSign maxSign wordRange at * <;> omega

/-- The difference of two Words is at most one RANGE outside the Word range. -/
theorem toInt_toWord_sub (l r : Word) : (toWord (l.toInt - r.toInt)).toInt = wrap (l.toInt - r.toInt) := by
  have hl := toInt_inRange l
  have hr := toInt_inRange r
  apply toInt_toWord_eq_wrap <;> unfold minSign maxSign wordRange at * <;> omega

/-- Settles O39: the raw sum and difference, their Words once wrapped and once modulo 2^32. -/
theorem addSubComplete : Obligations.AddSubComplete := by
  intro s hl hs
  refine ⟨?add, ?sub⟩
  case add =>
    obtain ⟨t, ht, hframe, hset⟩ := execAlu_completes (op := .add) hl hs rfl
    exact ⟨t, _, ht, hframe, hset, toInt_toWord_add _ _, toWord_toInt_add _ _⟩
  case sub =>
    obtain ⟨t, ht, hframe, hset⟩ := execAlu_completes (op := .sub) hl hs rfl
    exact ⟨t, _, ht, hframe, hset, toInt_toWord_sub _ _, toWord_toInt_sub _ _⟩

/-! ### MOD (R154) -/

/-- The floored remainder lies between 0 and the divisor, on the divisor's side. -/
theorem fmod_between (a : Int) {b : Int} (hb : b ≠ 0) :
    (0 ≤ a.fmod b ∧ a.fmod b < b) ∨ (b < a.fmod b ∧ a.fmod b ≤ 0) := by
  rcases lt_or_gt_of_ne hb with hneg | hpos
  · have hnonneg := Int.fmod_nonneg_of_pos (-a) (Int.neg_pos_of_neg hneg)
    have hlt := Int.fmod_lt_of_pos (-a) (Int.neg_pos_of_neg hneg)
    rw [Int.neg_fmod_neg] at hnonneg hlt
    omega
  · exact .inl ⟨Int.fmod_nonneg_of_pos a hpos, Int.fmod_lt_of_pos a hpos⟩

theorem fmod_eq_zero_or_sign_eq (a : Int) {b : Int} (hb : b ≠ 0) : a.fmod b = 0 ∨ (a.fmod b).sign = b.sign := by
  refine or_iff_not_imp_left.2 fun hne => ?_
  rcases fmod_between a hb with ⟨hnonneg, hlt⟩ | ⟨hlt, hnonpos⟩
  · rw [Int.sign_eq_one_of_pos (by omega), Int.sign_eq_one_of_pos (by omega)]
  · rw [Int.sign_eq_neg_one_of_neg (by omega), Int.sign_eq_neg_one_of_neg (by omega)]

theorem natAbs_fmod_lt (a : Int) {b : Int} (hb : b ≠ 0) : (a.fmod b).natAbs < b.natAbs := by
  have := fmod_between a hb
  omega

theorem natAbs_tmod_lt (a : Int) {b : Int} (hb : b ≠ 0) : (a.tmod b).natAbs < b.natAbs := by
  rw [Int.natAbs_tmod]
  exact Nat.mod_lt _ (Int.natAbs_pos.2 hb)

theorem toInt_ne_zero {w : Word} (h : w ≠ 0#32) : w.toInt ≠ 0 := BitVec.toInt_ne.2 h

/-- Both readings the spec names give a remainder smaller than a divisor that is not zero. -/
theorem modValue_of_ne_zero {f : ModFn} (l : Word) {r : Word} (hf : f ≠ .own) (hr : r ≠ 0#32) :
    ∃ m, modValue f l r = some m ∧ m.natAbs < r.toInt.natAbs ∧ (f = .floored → m = l.toInt.fmod r.toInt) ∧
      (f = .truncated → m = l.toInt.tmod r.toInt) := by
  cases f with
  | floored => exact ⟨_, modNonZero_of_ne _ l hr, natAbs_fmod_lt _ (toInt_ne_zero hr), fun _ => rfl, nofun⟩
  | truncated => exact ⟨_, modNonZero_of_ne _ l hr, natAbs_tmod_lt _ (toInt_ne_zero hr), nofun, fun _ => rfl⟩
  | own => exact absurd rfl hf

/-- Both readings the spec names fault on a zero divisor. -/
theorem modValue_zero {f : ModFn} (l : Word) (hf : f ≠ .own) : modValue f l 0#32 = none := by
  cases f with
  | floored | truncated => exact modNonZero_zero _ l
  | own => exact absurd rfl hf

theorem alu_mod_of_some {cfg : Config} {l r : Word} {m : Int} (h : modValue cfg.modFn l r = some m) :
    alu cfg .mod l r = .ok m := by
  simp [alu, h]

theorem alu_mod_of_none {cfg : Config} {l r : Word} (h : modValue cfg.modFn l r = none) :
    alu cfg .mod l r = .error (.fault .divideByZero) := by
  simp [alu, h]

/-- MOD faults where `MOD_FN` does (R216). -/
theorem exec_mod_faults {s : State} (hs : 1 ≤ s.sp)
    (h : modValue s.cfg.modFn (s.dsRead (s.sp - 1)) (s.dsRead s.sp) = none) :
    s.FaultsWith (exec .mod s) .divideByZero :=
  ⟨_, execAlu_of_error hs (alu_mod_of_none h), rfl, rfl⟩

/-- An integer smaller in magnitude than a Word is the value of its own Word. -/
theorem toInt_toWord_of_natAbs_lt {m : Int} {w : Word} (h : m.natAbs < w.toInt.natAbs) : (toWord m).toInt = m := by
  have hw := toInt_inRange w
  apply toInt_toWord_of_inRange <;> unfold minSign maxSign at * <;> omega

/-- Settles O40: a remainder smaller than the divisor is its own Word's value; the implementation's own function gives a
Word. -/
theorem modCompletes : Obligations.ModCompletes := by
  refine ⟨fun s hl hs hr hf => ?remainder, fun s hs hr hf => ?zeroDivisor,
    fun s hl hs hf => ⟨fun v hv => ?own, fun hv => ?ownFault⟩⟩
  case remainder =>
    obtain ⟨m, hm, hlt, hfloored, htruncated⟩ := modValue_of_ne_zero (s.dsRead (s.sp - 1)) hf hr
    obtain ⟨t, ht, hframe, hset⟩ := execAlu_completes hl hs (alu_mod_of_some hm)
    refine ⟨t, _, ht, hframe, hset, ?_⟩
    rw [toInt_toWord_of_natAbs_lt hlt]
    refine ⟨fun h => ?_, htruncated, hlt⟩
    rw [hfloored h]
    exact ⟨Int.fmod_def _ _, fmod_eq_zero_or_sign_eq _ (toInt_ne_zero hr)⟩
  case zeroDivisor => exact exec_mod_faults hs (by rw [hr, modValue_zero _ hf])
  case own =>
    have hm : modValue s.cfg.modFn (s.dsRead (s.sp - 1)) (s.dsRead s.sp) = some v.toInt := by simp [hf, modValue, hv]
    obtain ⟨t, ht, hframe, hset⟩ := execAlu_completes hl hs (alu_mod_of_some hm)
    rw [toWord_toInt] at hset
    exact ⟨t, ht, hframe, hset⟩
  case ownFault => exact exec_mod_faults hs (by simp [hf, modValue, hv])

/-! ### EQ (R155) -/

/-- Settles O41: the raw result is the value of EQ_TRUE or 0. -/
theorem eqCompletes : Obligations.EqCompletes := by
  intro s hl hs
  obtain ⟨t, ht, hframe, hset⟩ := execAlu_completes (op := .eq) hl hs rfl
  refine ⟨t, _, ht, hframe, hset, fun heq => ?equal, fun hne => ?different⟩
  case equal => rw [if_pos heq, toWord_toInt]
  case different => rw [if_neg hne]; rfl

/-! ### OR (R156) -/

theorem orValue_logical (l r : Word) : orValue .logical l r = 0#32 ∨ orValue .logical l r = 1#32 :=
  ite_eq_or_eq _ _ _

theorem orValue_firstNonZero_of_ne {l : Word} (r : Word) (h : l ≠ 0#32) : orValue .firstNonZero l r = l := if_neg h

theorem orValue_firstNonZero_of_eq {l : Word} (r : Word) (h : l = 0#32) : orValue .firstNonZero l r = r := if_pos h

/-- Where the implementation's own function meets the constraint of R6, it is what OR computes. -/
theorem orValue_own_of_constraint {l r : Word} (h : Config.orOwn l r = 0#32 ↔ l = 0#32 ∧ r = 0#32) :
    orValue .own l r = Config.orOwn l r := by
  by_cases hz : l = 0#32 ∧ r = 0#32
  · rw [h.2 hz, orValue_eq_zero_iff]; exact hz
  · have hne : Config.orOwn l r ≠ 0#32 := mt h.1 hz
    simp only [orValue, orConstrained, if_neg hz, if_neg hne]

/-- Settles O42: the result is the Word `OR_FN` gives, one clause for each reading. -/
theorem orCompletes : Obligations.OrCompletes := by
  intro s hl hs
  obtain ⟨t, ht, hframe, hset⟩ := execAlu_completes (op := .or) hl hs rfl
  rw [toWord_toInt] at hset
  refine ⟨t, _, ht, hframe, hset, orValue_eq_zero_iff _ _ _, fun h => ?bitwise, fun h => ?logical,
    fun h => ?firstNonZero, fun h => ?own⟩ <;> rw [h]
  case bitwise => rfl
  case logical => exact orValue_logical _ _
  case firstNonZero => exact ⟨orValue_firstNonZero_of_ne _, orValue_firstNonZero_of_eq _⟩
  case own => exact orValue_own_of_constraint

end Sys2Proof.Machine
end

section
/-! Proofs of the statements of 49_assembler.md: the resolution of one entry (R173), the image (R174, R176), the error
reported (R175) and the listing (R178). -/

namespace Sys2Proof.Machine

/-! ### One value and one entry (R173) -/

/-- The range check gives the Word whose signed value is the integer, and only where there is one. -/
theorem rangeChecked_eq_ok_iff {n : Int} {w : Word} : rangeChecked n = .ok w ↔ w.toInt = n := by
  constructor
  · intro h
    by_cases hout : n < minSign ∨ maxSign < n
    · simp [rangeChecked_of_out hout] at h
    · obtain ⟨hlo, hhi⟩ : minSign ≤ n ∧ n ≤ maxSign := by omega
      rw [rangeChecked_of_mem hlo hhi, Except.ok.injEq] at h
      rw [← h]
      exact toInt_toWord_of_inRange hlo hhi
  · rintro rfl
    rw [rangeChecked_of_mem w.le_toInt (Int.le_of_lt_add_one w.toInt_lt), BitVec.ofInt_toInt]

theorem rangeChecked_eq_error_iff {n : Int} {err : EncodeError} :
    rangeChecked n = .error err ↔ err = .rangeError n ∧ (n < minSign ∨ maxSign < n) := by
  by_cases hout : n < minSign ∨ maxSign < n
  · simp only [rangeChecked_of_out hout, hout, and_true, Except.error.injEq, eq_comm]
  · simp [rangeChecked_of_mem (n := n) (by omega) (by omega), hout]

/-- The range check answers a Word exactly inside the Word range. -/
theorem exists_rangeChecked_eq_ok_iff {n : Int} : (∃ w, rangeChecked n = .ok w) ↔ minSign ≤ n ∧ n ≤ maxSign := by
  constructor
  · rintro ⟨w, hw⟩
    rw [← rangeChecked_eq_ok_iff.1 hw]
    exact ⟨w.le_toInt, Int.le_of_lt_add_one w.toInt_lt⟩
  · rintro ⟨hlo, hhi⟩
    exact ⟨_, rangeChecked_of_mem hlo hhi⟩

theorem resolve_text_of_denotes {s : List Char} {n : Int} (opc : OpcMap)
    (symbols : List (List Char × SymbolKind × Int)) (cl : Nat) (h : Denotes s n) :
    resolve opc symbols cl (.text s) = rangeChecked n := by
  simp only [resolve, parseNumeral_eq_some_iff.2 h]

theorem resolve_text_of_undefined {symbols : List (List Char × SymbolKind × Int)} {s : List Char} (opc : OpcMap)
    (cl : Nat) (hname : ∀ n, ¬ Denotes s n) (h : ∀ x ∈ symbols, x.1 ≠ s) :
    resolve opc symbols cl (.text s) = .error (.undefinedSymbol s) := by
  simp only [resolve, parseNumeral_eq_none_iff.2 hname, lookupSymbol_eq_none_iff.2 h]

/-- A name that is listed resolves through its first entry: a code symbol to its position, a data symbol to its position
behind the code. -/
theorem resolve_text_of_listed {pre post : List (List Char × SymbolKind × Int)} {s : List Char} {kind : SymbolKind}
    {p n : Int} {cl : Nat} (opc : OpcMap) (hname : ∀ n, ¬ Denotes s n) (hpre : ∀ x ∈ pre, x.1 ≠ s)
    (hcode : kind = .code → n = p) (hdata : kind = .data → n = cl + p) :
    resolve opc (pre ++ (s, kind, p) :: post) cl (.text s) = rangeChecked n := by
  simp only [resolve, parseNumeral_eq_none_iff.2 hname, lookupSymbol_append hpre]
  cases kind
  case code => rw [hcode rfl]
  case data => rw [hdata rfl]

/-- Settles O58: an entry with a value resolves by the range check of that value. -/
theorem resolveFollowsRule : Obligations.ResolveFollowsRule := by
  intro opc symbols cl
  refine ⟨fun m => rfl, fun s => resolve_text_of_undefined opc cl, fun e n hvalue => ?_⟩
  have hcheck : resolve opc symbols cl e = rangeChecked n := by
    rcases hvalue with rfl | ⟨s, rfl, hs⟩ | ⟨s, kind, p, pre, post, rfl, hname, rfl, hpre, hcode, hdata⟩
    · rfl
    · exact resolve_text_of_denotes opc symbols cl hs
    · exact resolve_text_of_listed opc hname hpre hcode hdata
  rw [hcheck]
  refine ⟨fun hlo hhi => ?_, rangeChecked_of_out⟩
  obtain ⟨w, hw⟩ := exists_rangeChecked_eq_ok_iff.2 ⟨hlo, hhi⟩
  exact ⟨w, hw, rangeChecked_eq_ok_iff.1 hw⟩

/-- A name that resolves is in the symbol table (R176). -/
theorem exists_symbol_of_resolve_text {opc : OpcMap} {symbols : List (List Char × SymbolKind × Int)} {cl : Nat}
    {s : List Char} {w : Word} (hname : ∀ n, ¬ Denotes s n) (h : resolve opc symbols cl (.text s) = .ok w) :
    ∃ x ∈ symbols, x.1 = s := by
  by_contra hnone
  push Not at hnone
  rw [resolve_text_of_undefined opc cl hname hnone] at h
  cases h

/-! ### A list of entries in order (R174, R175) -/

section MapExcept

variable {α β ε : Type} {f : α → Except ε β}

/-- A list resolves to the list of its entries' values. -/
theorem forall₂_of_mapExcept_eq_ok {as : List α} {bs : List β} (h : mapExcept f as = .ok bs) :
    List.Forall₂ (fun a b => f a = .ok b) as bs := by
  induction as generalizing bs with
  | nil =>
    cases h
    exact .nil
  | cons a as ih =>
    unfold mapExcept at h
    split at h
    next => cases h
    next b hb =>
      split at h
      next => cases h
      next cs hcs =>
        cases h
        exact .cons hb (ih hcs)

/-- A list is refused at its first entry that is. -/
theorem exists_first_of_mapExcept_eq_error {as : List α} {err : ε} (h : mapExcept f as = .error err) :
    ∃ pre a post, as = pre ++ a :: post ∧ f a = .error err ∧ ∀ x ∈ pre, ∃ b, f x = .ok b := by
  induction as with
  | nil => cases h
  | cons a as ih =>
    unfold mapExcept at h
    split at h
    next e he =>
      cases h
      exact ⟨[], a, as, rfl, he, by simp⟩
    next b hb =>
      split at h
      next e he =>
        cases h
        obtain ⟨pre, x, post, rfl, hx, hpre⟩ := ih he
        exact ⟨a :: pre, x, post, rfl, hx, List.forall_mem_cons.2 ⟨⟨b, hb⟩, hpre⟩⟩
      next => cases h

theorem exists_getElem?_of_mapExcept_eq_ok {as : List α} {bs : List β} (h : mapExcept f as = .ok bs) {k : Nat} {a : α}
    (ha : as[k]? = some a) : ∃ b, bs[k]? = some b ∧ f a = .ok b := by
  obtain ⟨hlen, hget⟩ := List.forall₂_iff_get.1 (forall₂_of_mapExcept_eq_ok h)
  obtain ⟨hk, rfl⟩ := List.getElem?_eq_some_iff.1 ha
  exact ⟨bs[k], List.getElem?_eq_getElem (hlen ▸ hk), hget k hk (hlen ▸ hk)⟩

theorem length_of_mapExcept_eq_ok {as : List α} {bs : List β} (h : mapExcept f as = .ok bs) : bs.length = as.length :=
  (forall₂_of_mapExcept_eq_ok h).length_eq.symm

theorem forall_exists_of_mapExcept_eq_ok {as : List α} {bs : List β} (h : mapExcept f as = .ok bs) :
    ∀ x ∈ as, ∃ b, f x = .ok b := by
  intro x hx
  obtain ⟨k, hk⟩ := List.mem_iff_getElem?.1 hx
  obtain ⟨b, -, hb⟩ := exists_getElem?_of_mapExcept_eq_ok h hk
  exact ⟨b, hb⟩

end MapExcept

/-! ### The image and the errors (R174 to R176) -/

/-- The three parts of an image: every one of them was resolved. -/
theorem parts_of_assemble_eq_ok {opc : OpcMap} {src : Source} {image : List Word} (h : assemble opc src = .ok image) :
    ∃ start code data, mapExcept (resolve opc src.symbols src.instrs.length) src.instrs = .ok code ∧
      mapExcept rangeChecked src.data = .ok data ∧ rangeChecked src.start = .ok start ∧
      image = start :: code ++ data := by
  unfold assemble at h
  split at h
  next => cases h
  next code hcode =>
    split at h
    next => cases h
    next data hdata =>
      split at h
      next => cases h
      next start hstart =>
        cases h
        exact ⟨start, code, data, hcode, hdata, hstart, rfl⟩

/-- The part an error comes from: the parts before it were resolved (D26). -/
theorem part_of_assemble_eq_error {opc : OpcMap} {src : Source} {err : EncodeError}
    (h : assemble opc src = .error err) :
    mapExcept (resolve opc src.symbols src.instrs.length) src.instrs = .error err ∨
    (∃ code, mapExcept (resolve opc src.symbols src.instrs.length) src.instrs = .ok code) ∧
      (mapExcept rangeChecked src.data = .error err ∨
        (∃ data, mapExcept rangeChecked src.data = .ok data) ∧ rangeChecked src.start = .error err) := by
  unfold assemble at h
  split at h
  next e he =>
    cases h
    exact .inl he
  next code hcode =>
    refine .inr ⟨⟨code, hcode⟩, ?_⟩
    split at h
    next e he =>
      cases h
      exact .inl he
    next data hdata =>
      split at h
      next e he =>
        cases h
        exact .inr ⟨⟨data, hdata⟩, he⟩
      next => cases h

/-- Settles O57: each part of the image is what its list resolves to. -/
theorem encoderImageContents : Obligations.EncoderImageContents := by
  intro opc src image h
  obtain ⟨start, code, data, hcode, hdata, hstart, rfl⟩ := parts_of_assemble_eq_ok h
  have hcodeLength := length_of_mapExcept_eq_ok hcode
  have hdataLength := length_of_mapExcept_eq_ok hdata
  refine ⟨?length, ?start, fun k e he => ?entry, fun k d hd => ?datum, fun s hs hname => ?name⟩
  case length =>
    simp only [List.length_append, List.length_cons]
    omega
  case start => simp [rangeChecked_eq_ok_iff.1 hstart]
  case entry =>
    obtain ⟨w, hw, hres⟩ := exists_getElem?_of_mapExcept_eq_ok hcode he
    obtain ⟨hk, -⟩ := List.getElem?_eq_some_iff.1 hw
    exact ⟨w, by simpa [List.getElem?_append_left hk] using hw, hres⟩
  case datum =>
    obtain ⟨w, hw, hres⟩ := exists_getElem?_of_mapExcept_eq_ok hdata hd
    have hat : (start :: code ++ data)[1 + src.instrs.length + k]? = some w := by
      have hoffset : 1 + src.instrs.length + k - (start :: code).length = k := by
        rw [List.length_cons, hcodeLength]
        omega
      rw [List.getElem?_append_right (by rw [List.length_cons]; omega), hoffset, hw]
    rw [hat, Option.map_some, rangeChecked_eq_ok_iff.1 hres]
  case name =>
    obtain ⟨w, hw⟩ := forall_exists_of_mapExcept_eq_ok hcode _ hs
    exact exists_symbol_of_resolve_text hname hw

/-- Settles O59: the parts are resolved in the order instruction list, data list, start offset, each list in its own
order. -/
theorem encoderReportsFirstError : Obligations.EncoderReportsFirstError := by
  intro opc src err h
  rcases part_of_assemble_eq_error h with hinstrs | ⟨⟨code, hcode⟩, hdata | ⟨⟨data, hdata⟩, hstart⟩⟩
  · exact .inl (exists_first_of_mapExcept_eq_error hinstrs)
  · obtain ⟨pre, d, post, hsplit, hd, hpre⟩ := exists_first_of_mapExcept_eq_error hdata
    obtain ⟨herr, hout⟩ := rangeChecked_eq_error_iff.1 hd
    exact .inr ⟨forall_exists_of_mapExcept_eq_ok hcode, .inl ⟨pre, d, post, hsplit, herr, hout,
      fun x hx => exists_rangeChecked_eq_ok_iff.1 (hpre x hx)⟩⟩
  · exact .inr ⟨forall_exists_of_mapExcept_eq_ok hcode, .inr
      ⟨fun x hx => exists_rangeChecked_eq_ok_iff.1 (forall_exists_of_mapExcept_eq_ok hdata x hx),
        rangeChecked_eq_error_iff.1 hstart⟩⟩

/-! ### The listing (R178) -/

theorem length_listingFrom (neg : ListingNeg) (index : Nat) (ws : List Word) (ls : List (List Char)) :
    (listingFrom neg index ws ls).length = ws.length := by
  induction ws generalizing index ls with
  | nil => simp [listingFrom]
  | cons w ws ih => cases ls <;> simp [listingFrom, ih]

/-- The line of the Word at position `k`: its own index and its own label, `Number-value` where the labels have run
out. -/
theorem getElem?_listingFrom (neg : ListingNeg) (index k : Nat) {ws : List Word} (ls : List (List Char)) {w : Word}
    (h : ws[k]? = some w) :
    (listingFrom neg index ws ls)[k]? = some (listingLine neg (index + k) w (ls[k]?.getD numberLabel)) := by
  induction ws generalizing index k ls with
  | nil => simp at h
  | cons v ws ih =>
    cases k with
    | zero =>
      obtain rfl : v = w := by simpa using h
      cases ls <;> rfl
    | succ k =>
      have hindex : index + 1 + k = index + (k + 1) := by omega
      cases ls with
      | nil => simpa [listingFrom, hindex] using ih (index + 1) k [] h
      | cons l ls => simpa [listingFrom, hindex] using ih (index + 1) k ls h

/-- A Word that is not negative, and every Word under `pattern`, is printed as its 32-bit pattern. -/
theorem listingValue_isPaddedHex {neg : ListingNeg} {w : Word} (h : 0 ≤ w.toInt ∨ neg = .pattern) :
    IsPaddedHex 8 w.toNat (listingValue neg w) := by
  have hvalue : listingValue neg w = hexPadded 8 w.toNat := by
    cases neg
    case pattern => rfl
    case signMagnitude => exact if_neg (Int.not_lt.2 (h.resolve_right (by simp)))
  rw [hvalue]
  exact hexPadded_isPaddedHex (by decide) _

/-- A negative Word under `signMagnitude` is printed as a minus sign and its magnitude. -/
theorem listingValue_of_negative {w : Word} (h : w.toInt < 0) :
    ∃ m, listingValue .signMagnitude w = '-' :: m ∧ IsPaddedHex 8 w.toInt.natAbs m :=
  ⟨_, if_pos h, hexPadded_isPaddedHex (by decide) _⟩

theorem mnemonicName_of_mem_opcodeNames : ∀ x ∈ opcodeNames, mnemonicName x.1 = x.2 := by decide

theorem entryLabel_text_of_denotes {s : List Char} {n : Int} (h : Denotes s n) :
    entryLabel (.text s) = numberLabel := by
  simp [entryLabel, parseNumeral_eq_some_iff.2 h]

theorem entryLabel_text_of_name {s : List Char} (h : ∀ n, ¬ Denotes s n) :
    entryLabel (.text s) = addressLabel ++ s := by
  simp [entryLabel, parseNumeral_eq_none_iff.2 h]

/-- The label of each line: the entry word's, the entries' in order, the data Words'. -/
def lineLabel (src : Source) (k : Nat) : List Char :=
  (numberLabel :: src.instrs.map entryLabel)[k]?.getD numberLabel

theorem lineLabel_of_noEntry {src : Source} {k : Nat} (h : k = 0 ∨ src.instrs.length < k) :
    lineLabel src k = numberLabel := by
  rcases h with rfl | h
  · rfl
  · rw [lineLabel, List.getElem?_eq_none (by simpa using h), Option.getD_none]

theorem lineLabel_of_entry {src : Source} {k : Nat} {e : Entry} (hk : 0 < k) (h : src.instrs[k - 1]? = some e) :
    lineLabel src k = entryLabel e := by
  obtain ⟨j, rfl⟩ := Nat.exists_eq_succ_of_ne_zero hk.ne'
  rw [Nat.succ_sub_one] at h
  simp [lineLabel, h]

theorem listing_of_assemble_eq_ok {opc : OpcMap} {src : Source} {image : List Word} (neg : ListingNeg)
    (h : assemble opc src = .ok image) :
    listing neg opc src = .ok (listingFrom neg 0 image (numberLabel :: src.instrs.map entryLabel)) := by
  simp only [listing, h]

/-- Settles O60: the line of a Word is its index, its value and the label of its place. -/
theorem listingOneLinePerWord : Obligations.ListingOneLinePerWord := by
  intro neg opc src image h
  refine ⟨_, listing_of_assemble_eq_ok neg h, length_listingFrom .., fun k w hw => ?_⟩
  refine ⟨hexPadded 2 k, listingValue neg w, lineLabel src k, ?line, hexPadded_isPaddedHex (by decide) k,
    listingValue_isPaddedHex, ?negative, lineLabel_of_noEntry, fun e hk he => ?entry⟩
  case line =>
    rw [getElem?_listingFrom neg 0 k _ hw, Nat.zero_add]
    rfl
  case negative =>
    rintro hneg rfl
    exact listingValue_of_negative hneg
  case entry =>
    rw [lineLabel_of_entry hk he]
    refine ⟨?opcode, ?literal, ?text⟩
    case opcode =>
      rintro m name hm rfl
      exact mnemonicName_of_mem_opcodeNames _ hm
    case literal => rintro n rfl; rfl
    case text =>
      rintro s rfl
      exact ⟨fun ⟨_, hn⟩ => entryLabel_text_of_denotes hn, entryLabel_text_of_name⟩

end Sys2Proof.Machine
end

section
/-! Proofs of the statements of 60_exceptions.md: what ends a run (R200 to R204), that no condition touches OUT (R218), and
each fault where its rule raises it (R206 to R215). -/

namespace Sys2Proof.Machine

/-! ### What ends a run (R200 to R205) -/

/-- The only condition the arithmetic instructions raise is a fault. -/
theorem exec_arithmetic_status {i : Instr} {s t : State} (hi : i.mnemonic ∈ [Mnemonic.ADD, .SUB, .MOD, .EQ, .OR])
    (h : exec i s = .next t) : t.status = s.status ∨ ∃ k, t.status = .faulted k := by
  obtain ⟨op, hop⟩ := exec_eq_execAlu hi
  rw [hop] at h
  rcases execAlu_cases h with ⟨-, rfl⟩ | ⟨-, c, hc, rfl⟩ | ⟨-, r, -, rfl⟩
  · exact .inr ⟨_, rfl⟩
  · obtain ⟨-, -, rfl⟩ := alu_error hc
    exact .inr ⟨_, rfl⟩
  · exact .inl rfl

/-- The conditions an execute phase can raise: Halt by HLT, InputExhausted by GET_VAL of the input address with an empty
queue, and otherwise faults; an instruction that raises none keeps STATUS. -/
theorem exec_status {i : Instr} {s t : State} (h : exec i s = .next t) :
    t.status = s.status ∨ (∃ k, t.status = .faulted k) ∨ (i = .hlt ∧ t.status = .halted) ∨
    (i = .getVal ∧ (0 ≤ s.sp ∧ s.dsRead s.sp = inAddr ∧ s.input = []) ∧ t.status = .inputExhausted) := by
  cases i with
  | hlt => rcases execHlt_cases h with rfl; exact .inr (.inr (.inl ⟨rfl, rfl⟩))
  | jmp o => rcases execJmp_cases h with ⟨-, rfl⟩ | ⟨a, -, rfl⟩ <;> simp
  | jz o => rcases execJz_cases h with ⟨-, rfl⟩ | ⟨-, -, -, rfl⟩ | ⟨-, -, a, -, rfl⟩ | ⟨-, -, rfl⟩ <;> simp
  | call o => rcases execCall_cases h with ⟨-, rfl⟩ | ⟨-, -, rfl⟩ | ⟨-, a, -, rfl⟩ <;> simp
  | ret => rcases execRet_cases h with ⟨-, rfl⟩ | ⟨-, rfl⟩ <;> simp
  | getVal =>
    rcases execGetVal_cases h with ⟨-, rfl⟩ | ⟨hsp, c, hc, rfl⟩ | ⟨-, v, u, hu, rfl⟩
    · exact .inr (.inl ⟨_, rfl⟩)
    · rcases State.memRead_error hc with ⟨ha, hin, rfl⟩ | ⟨-, rfl⟩ | ⟨-, -, -, rfl⟩
      · exact .inr (.inr (.inr ⟨rfl, ⟨hsp, ha, hin⟩, rfl⟩))
      · exact .inr (.inl ⟨_, rfl⟩)
      · exact .inr (.inl ⟨_, rfl⟩)
    · rcases State.memRead_ok hu with ⟨-, rest, -, rfl⟩ | ⟨-, -, -, -, rfl⟩ <;> exact .inl rfl
  | storeVal =>
    rcases execStoreVal_cases h with ⟨-, rfl⟩ | ⟨-, c, hc, rfl⟩ | ⟨-, u, hu, rfl⟩
    · exact .inr (.inl ⟨_, rfl⟩)
    · obtain ⟨k, rfl⟩ := State.memWrite_error_fault hc
      exact .inr (.inl ⟨k, rfl⟩)
    · rcases State.memWrite_ok hu with ⟨-, rfl⟩ | ⟨-, -, -, rfl⟩ <;> exact .inl rfl
  | peek o =>
    rcases execPeek_cases h with ⟨-, rfl⟩ | ⟨-, -, rfl⟩ | ⟨-, k, -, -, rfl⟩ | ⟨-, k, -, -, -, rfl⟩ <;> simp
  | push o => rcases execPush_cases h with ⟨-, rfl⟩ | ⟨-, -, rfl⟩ | ⟨-, v, -, rfl⟩ <;> simp
  | drop => rcases execDrop_cases h with ⟨-, rfl⟩ | ⟨-, rfl⟩ <;> simp
  | pushr o => rcases execPushr_cases h with ⟨-, rfl⟩ | ⟨-, -, rfl⟩ | ⟨-, v, -, rfl⟩ <;> simp
  | dropr => rcases execDropr_cases h with ⟨-, rfl⟩ | ⟨-, rfl⟩ <;> simp
  | add | sub | mod | eq | or => exact (exec_arithmetic_status (by decide) h).imp_right .inl

/-- What a step leaves in STATUS. Before the fetch it is the tick limit; after it the machine still runs or has faulted,
or it fetched HLT, or GET_VAL found the input address on top and no code in the queue. -/
theorem step_status {s t : State} (h : step s = .next t) :
    (s.budgetSpent = true ∧ t = s.raise .tickLimit) ∨
    (s.budgetSpent = false ∧
      (t.status = .running ∨ (∃ k, t.status = .faulted k) ∨
       (s.memFetch s.pc = some (s.cfg.opc.code .HLT) ∧ t.status = .halted) ∨
       (s.memFetch s.pc = some (s.cfg.opc.code .GET_VAL) ∧ (0 ≤ s.sp ∧ s.dsRead s.sp = inAddr ∧ s.input = []) ∧
         t.status = .inputExhausted))) := by
  obtain ⟨hr, ⟨hb, rfl⟩ | ⟨hb, -, rfl⟩ | ⟨w, hb, -, -, rfl⟩ | ⟨w, m, u, hb, hw, hm, hu, hend⟩⟩ := step_cases h
  · exact .inl ⟨hb, rfl⟩
  · exact .inr ⟨hb, .inr (.inl ⟨_, rfl⟩)⟩
  · exact .inr ⟨hb, .inr (.inl ⟨_, rfl⟩)⟩
  · have hcode : s.memFetch s.pc = some (s.cfg.opc.code m) := by rw [hw, code_of_mnemonicOf hm]
    have hstatus : t.status = u.status := by rcases hend with ⟨-, rfl⟩ | ⟨-, rfl⟩ <;> rfl
    rw [hstatus]
    refine .inr ⟨hb, ?_⟩
    rcases exec_status hu with hkept | hfault | ⟨hi, hhalt⟩ | ⟨hi, hempty, hex⟩
    · exact .inl (hkept.trans hr)
    · exact .inr (.inl hfault)
    · obtain rfl : m = .HLT := (Instr.mnemonic_ofMnemonic m _).symm.trans (congrArg Instr.mnemonic hi)
      exact .inr (.inr (.inl ⟨hcode, hhalt⟩))
    · obtain rfl : m = .GET_VAL := (Instr.mnemonic_ofMnemonic m _).symm.trans (congrArg Instr.mnemonic hi)
      exact .inr (.inr (.inr ⟨hcode, hempty, hex⟩))

theorem State.budgetSpent_iff {s : State} : s.budgetSpent = true ↔ ∃ n, s.cfg.tickLimit = some n ∧ n ≤ s.tick := by
  cases h : s.cfg.tickLimit <;> simp [State.budgetSpent, h]

/-- Settles O15: of the ways a step can end only the test before the fetch gives TickLimit, with nothing else done. -/
theorem tickLimitExactlyBeforeFetch : Obligations.TickLimitExactlyBeforeFetch := by
  intro s t _ h
  rw [← State.budgetSpent_iff]
  rcases step_status h with ⟨hb, rfl⟩ | ⟨hb, hrun | ⟨k, hk⟩ | ⟨-, hhalt⟩ | ⟨-, -, hex⟩⟩
  · exact ⟨iff_of_true rfl hb, fun _ => rfl⟩
  all_goals simp [*]

/-- Settles O54: HLT's step halts (O17), and a step that halts fetched its code. -/
theorem haltedExactlyByHlt : Obligations.HaltedExactlyByHlt := by
  intro s t hopc h
  refine ⟨fun hhalted => ?only, fun ⟨hb, hw⟩ => ?halts⟩
  case only =>
    rcases step_status h with ⟨-, rfl⟩ | ⟨hb, hrun | ⟨k, hk⟩ | ⟨hw, -⟩ | ⟨-, -, hex⟩⟩
    · cases hhalted
    · cases hrun.symm.trans hhalted
    · cases hk.symm.trans hhalted
    · exact ⟨hb, hw⟩
    · cases hex.symm.trans hhalted
  case halts =>
    obtain ⟨hr, -⟩ := step_cases h
    obtain ⟨u, hu, rfl, -⟩ := hltHalts.2 s hr hb hopc hw
    cases h.symm.trans hu
    rfl

/-- Settles O55: GET_VAL's data read of the empty queue ends the step, and a step that ends so fetched its code. -/
theorem inputExhaustedExactly : Obligations.InputExhaustedExactly := by
  intro s t hopc h
  refine ⟨fun hexhausted => ?only, fun ⟨hb, hw, hsp, ha, hin⟩ => ?exhausts⟩
  case only =>
    rcases step_status h with ⟨-, rfl⟩ | ⟨hb, hrun | ⟨k, hk⟩ | ⟨-, hhalt⟩ | ⟨hw, hempty, -⟩⟩
    · cases hexhausted
    · cases hrun.symm.trans hexhausted
    · cases hk.symm.trans hexhausted
    · cases hhalt.symm.trans hexhausted
    · exact ⟨hb, hw, hempty⟩
  case exhausts =>
    obtain ⟨hr, -⟩ := step_cases h
    have hexec := getValInputExhausted (s.fetched (s.cfg.opc.code .GET_VAL)) hsp ha hin
    have hstep := (step_of_code hr hb hopc hw).trans (congrArg endStep hexec)
    rw [endStep_of_not_running (by simp)] at hstep
    cases h.symm.trans hstep
    rfl

/-! ### No condition touches OUT (R218) -/

/-- Only a STORE_VAL that completes writes OUT, and that raises nothing. -/
theorem exec_output_of_condition {i : Instr} {s t : State} (h : exec i s = .next t) (hs : t.status ≠ s.status) :
    t.output = s.output := by
  cases i with
  | storeVal =>
    rcases execStoreVal_outcomes h with rfl | ⟨c, rfl⟩ | ⟨-, -, v, rfl⟩ | ⟨-, a, v, -, -, -, -, rfl⟩
    · rfl
    · rfl
    · exact absurd rfl hs
    · rfl
  | _ => rw [exec_frame h]; rfl

/-- Settles O51: a condition raised before or in the execute phase finds OUT as the step did. -/
theorem conditionsKeepOutput : Obligations.ConditionsKeepOutput := by
  intro s t h hended
  obtain ⟨hr, ⟨-, rfl⟩ | ⟨-, -, rfl⟩ | ⟨w, -, -, -, rfl⟩ | ⟨w, m, u, -, -, -, hu, hend⟩⟩ := step_cases h
  · rfl
  · rfl
  · rfl
  · rcases hend with ⟨hne, rfl⟩ | ⟨hrun, rfl⟩
    · have hkeep : t.output = (s.fetched w).output := exec_output_of_condition hu fun hkept => hne (hkept.trans hr)
      exact hkeep
    · exact absurd hrun hended

/-! ### Fetch and decode (R206, R207) -/

theorem State.memFetch_of_inMem {s : State} {a : Word} (h : s.inMem a = true) :
    s.memFetch a = some (s.mem.read a.toNat) := if_pos h

/-- Settles O13: the fetch's two faults. -/
theorem fetchAndDecodeFaults : Obligations.FetchAndDecodeFaults := by
  refine fun s hr hb => ⟨fun hout => ?outside, fun hin hillegal => ?illegal⟩
  case outside => exact ⟨_, step_of_memFetch_none hr hb (State.memFetch_eq_none hout), rfl, rfl⟩
  case illegal => exact ⟨_, step_of_illegal_word hr hb (State.memFetch_of_inMem hin) hillegal, rfl, rfl⟩

/-! ### Stacks with no room (R209, R211) and empty stacks (R208, R210): the test precedes everything else (R215) -/

theorem State.dsFull_of_le {s : State} (h : (s.cfg.dstackCap : Int) - 1 ≤ s.sp) : s.dsFull = true :=
  State.dsFull_iff.2 (Int.lt_add_one_of_le h)

theorem State.rsFull_of_le {s : State} (h : (s.cfg.rstackCap : Int) - 1 ≤ s.rsp) : s.rsFull = true :=
  State.rsFull_iff.2 (Int.lt_add_one_of_le h)

theorem execPush_of_dsFull {s : State} (h : s.dsFull = true) (o : Option Word) :
    execPush o s = .next (s.fault .dStackOverflow) := congrArg _ (if_pos h)

theorem execPeek_of_dsFull {s : State} (h : s.dsFull = true) (o : Option Word) :
    execPeek o s = .next (s.fault .dStackOverflow) := congrArg _ (if_pos h)

theorem execCall_of_rsFull {s : State} (h : s.rsFull = true) (o : Option Word) :
    execCall o s = .next (s.fault .rStackOverflow) := congrArg _ (if_pos h)

theorem execPushr_of_rsFull {s : State} (h : s.rsFull = true) (o : Option Word) :
    execPushr o s = .next (s.fault .rStackOverflow) := congrArg _ (if_pos h)

theorem execRet_of_neg {s : State} (h : s.rsp < 0) : execRet s = .next (s.fault .rStackUnderflow) :=
  congrArg _ (if_pos h)

theorem execDropr_of_neg {s : State} (h : s.rsp < 0) : execDropr s = .next (s.fault .rStackUnderflow) :=
  congrArg _ (if_pos h)

theorem execDrop_of_neg {s : State} (h : s.sp < 0) : execDrop s = .next (s.fault .dStackUnderflow) :=
  congrArg _ (if_pos h)

theorem execGetVal_of_neg {s : State} (h : s.sp < 0) : execGetVal s = .next (s.fault .dStackUnderflow) := by
  simp [execGetVal, State.tos_of_neg h]

theorem execJz_of_neg {s : State} (h : s.sp < 0) (o : Option Word) : execJz o s = .next (s.fault .dStackUnderflow) := by
  simp [execJz, State.zeroFlag_of_neg h]

theorem execStoreVal_of_lt {s : State} (h : s.sp < 1) : execStoreVal s = .next (s.fault .dStackUnderflow) := by
  simp [execStoreVal, State.sos_of_lt h]

theorem execAlu_of_lt {s : State} (h : s.sp < 1) (op : AluOp) : execAlu op s = .next (s.fault .dStackUnderflow) := by
  simp [execAlu, State.sos_of_lt h]

theorem exec_arithmetic_underflows {i : Instr} {s : State}
    (hi : i.mnemonic ∈ [Mnemonic.ADD, .SUB, .MOD, .EQ, .OR]) (h : s.sp < 1) :
    s.FaultsWith (exec i s) .dStackUnderflow := by
  obtain ⟨op, hop⟩ := exec_eq_execAlu hi
  exact ⟨_, (hop s).trans (execAlu_of_lt h op), rfl, rfl⟩

/-- Settles O24: the return stack's test, in the four instructions that make it. -/
theorem returnStackFaults : Obligations.ReturnStackFaults := by
  refine fun s o => ⟨fun hempty => ⟨?ret, ?dropr⟩, fun hfull => ⟨?call, ?pushr⟩⟩
  case ret => exact ⟨_, execRet_of_neg hempty, rfl, rfl⟩
  case dropr => exact ⟨_, execDropr_of_neg hempty, rfl, rfl⟩
  case call => exact ⟨_, execCall_of_rsFull (State.rsFull_of_le hfull) o, rfl, rfl⟩
  case pushr => exact ⟨_, execPushr_of_rsFull (State.rsFull_of_le hfull) o, rfl, rfl⟩

/-- Settles O37: TOS is wanted by DROP, GET_VAL and JZ, SOS by STORE_VAL and the arithmetic instructions. -/
theorem operandStackUnderflow : Obligations.OperandStackUnderflow := by
  refine fun s i => ⟨fun hi hs => ?one, fun hi hs => ?two⟩
  case one =>
    cases i with
    | drop => exact ⟨_, execDrop_of_neg hs, rfl, rfl⟩
    | getVal => exact ⟨_, execGetVal_of_neg hs, rfl, rfl⟩
    | jz o => exact ⟨_, execJz_of_neg hs o, rfl, rfl⟩
    | _ => simp [Instr.mnemonic] at hi
  case two =>
    cases i with
    | storeVal => exact ⟨_, execStoreVal_of_lt hs, rfl, rfl⟩
    | add | sub | mod | eq | or => exact exec_arithmetic_underflows (by decide) hs
    | _ => simp at hi

/-! ### The operand read, with room on the stack (R207, R212) -/

theorem execJz_of_missing {s : State} (hsp : 0 ≤ s.sp) (hz : s.dsRead s.sp = 0#32) :
    execJz none s = .next (s.fault (.fetchOutOfRange s.pc)) := by
  simp [execJz, State.zeroFlag_of_nonneg hsp, hz]

theorem execCall_of_missing {s : State} (h : s.rsp < (s.cfg.rstackCap : Int) - 1) :
    execCall none s = .next (((s.rsPush (nextPc s.pc)).addTicks 1).fault (.fetchOutOfRange s.pc)) := by
  simp only [execCall, State.rsFull_eq_false_iff.2 h]
  rfl

theorem execPushr_of_missing {s : State} (h : s.rsp < (s.cfg.rstackCap : Int) - 1) :
    execPushr none s = .next (((s.setRsp (s.rsp + 1)).addTicks 1).fault (.fetchOutOfRange s.pc)) := by
  simp [execPushr, State.rsFull_eq_false_iff.2 h]

theorem execPush_of_missing {s : State} (h : s.sp < (s.cfg.dstackCap : Int) - 1) :
    execPush none s = .next (((s.setSp (s.sp + 1)).addTicks 1).fault (.fetchOutOfRange s.pc)) := by
  simp [execPush, State.dsFull_eq_false_iff.2 h]

theorem execPeek_of_missing {s : State} (h : s.sp < (s.cfg.dstackCap : Int) - 1) :
    execPeek none s = .next (((s.setSp (s.sp + 1)).addTicks 1).fault (.fetchOutOfRange s.pc)) := by
  simp [execPeek, State.dsFull_eq_false_iff.2 h]

/-- PEEK checks its offset after its room (R131). -/
theorem execPeek_of_dead {s : State} {k : Word} (h : s.sp < (s.cfg.dstackCap : Int) - 1)
    (hk : k.toInt < 0 ∨ s.rsp < k.toInt) :
    execPeek (some k) s = .next (((s.setSp (s.sp + 1)).addTicks 1).fault (.rStackIndex k)) := by
  simp [execPeek, State.dsFull_eq_false_iff.2 h, hk]

/-- Settles O25: each two-word instruction, its earlier tests passed, reads its operand at `PC`. -/
theorem missingOperandFaults : Obligations.MissingOperandFaults := by
  refine fun s => ⟨?jmp, fun hsp hz => ?jz, fun hroom => ⟨?call, ?pushr⟩, fun hroom => ⟨?push, ?peek⟩⟩
  case jmp => exact ⟨_, rfl, rfl, rfl⟩
  case jz => exact ⟨_, execJz_of_missing hsp hz, rfl, rfl⟩
  case call => exact ⟨_, execCall_of_missing hroom, rfl, rfl⟩
  case pushr => exact ⟨_, execPushr_of_missing hroom, rfl, rfl⟩
  case push => exact ⟨_, execPush_of_missing hroom, rfl, rfl⟩
  case peek => exact ⟨_, execPeek_of_missing hroom, rfl, rfl⟩

/-- Settles O35: the operand stack's room is tested before the operand is read, PEEK's offset after. -/
theorem pushAndPeekFaults : Obligations.PushAndPeekFaults := by
  refine fun s o k => ⟨fun hfull => ⟨?push, ?peek⟩, fun hroom hdead => ?index⟩
  case push => exact ⟨_, execPush_of_dsFull (State.dsFull_of_le hfull) o, rfl, rfl⟩
  case peek => exact ⟨_, execPeek_of_dsFull (State.dsFull_of_le hfull) o, rfl, rfl⟩
  case index => exact ⟨_, execPeek_of_dead hroom hdead, rfl, rfl⟩

/-! ### Data accesses (R213, R214) -/

theorem State.inMem_eq_false_iff {s : State} {a : Word} :
    s.inMem a = false ↔ a.toInt < 0 ∨ (s.cfg.memSize : Int) ≤ a.toInt := by
  simp [State.inMem, imp_iff_not_or]

/-- A data read of the output address is in the wrong direction (R59). -/
theorem State.memRead_outAddr (s : State) : s.memRead outAddr = .error (.fault (.accessDirection .read outAddr)) := by
  simp [State.memRead, inAddr, outAddr]

/-- A data read of no cell (R54). -/
theorem State.memRead_of_not_inMem {s : State} {a : Word} (hin : a ≠ inAddr) (hout : a ≠ outAddr)
    (hm : s.inMem a = false) : s.memRead a = .error (.fault (.dataAddressOutOfRange .read a)) := by
  simp [State.memRead, hin, hout, hm]

/-- A data write of the input address is in the wrong direction (R59). -/
theorem State.memWrite_inAddr (s : State) (v : Word) :
    s.memWrite inAddr v = .error (.fault (.accessDirection .write inAddr)) := by
  simp [State.memWrite, inAddr, outAddr]

/-- A data write of no cell (R55). -/
theorem State.memWrite_of_not_inMem {s : State} {a : Word} (hin : a ≠ inAddr) (hout : a ≠ outAddr)
    (hm : s.inMem a = false) (v : Word) : s.memWrite a v = .error (.fault (.dataAddressOutOfRange .write a)) := by
  simp [State.memWrite, hin, hout, hm]

/-- STORE_VAL where its data write raises a condition (R121). -/
theorem execStoreVal_of_error {s : State} {a : Word} {c : Condition} (ha : s.sos = some a)
    (h : ((s.setDar a).addTicks 1).memWrite a (s.dsRead s.sp) = .error c) :
    execStoreVal s = .next (((s.setDar a).addTicks 1).raise c) := by
  simp [execStoreVal, ha, h]

/-- Settles O31: GET_VAL reads at TOS and STORE_VAL writes at SOS, and each raises what its data access does. -/
theorem dataAccessFaults : Obligations.DataAccessFaults := by
  refine ⟨fun s a hsp ha => ⟨?readDirection, fun hin hout hcell => ?readRange⟩,
    fun s a hsp ha => ⟨?writeDirection, fun hin hout hcell => ?writeRange⟩⟩
  case readDirection =>
    rintro rfl
    exact ⟨_, execGetVal_of_error (State.tos_eq_some.2 ⟨hsp, ha⟩) (State.memRead_outAddr _), rfl, rfl⟩
  case readRange =>
    have hm : ((s.setDar a).addTicks 1).inMem a = false := State.inMem_eq_false_iff.2 hcell
    exact ⟨_, execGetVal_of_error (State.tos_eq_some.2 ⟨hsp, ha⟩) (State.memRead_of_not_inMem hin hout hm), rfl, rfl⟩
  case writeDirection =>
    rintro rfl
    exact ⟨_, execStoreVal_of_error (State.sos_eq_some.2 ⟨hsp, ha⟩) (State.memWrite_inAddr _ _), rfl, rfl⟩
  case writeRange =>
    have hm : ((s.setDar a).addTicks 1).inMem a = false := State.inMem_eq_false_iff.2 hcell
    exact ⟨_, execStoreVal_of_error (State.sos_eq_some.2 ⟨hsp, ha⟩) (State.memWrite_of_not_inMem hin hout hm _), rfl, rfl⟩

end Sys2Proof.Machine
end

section
/-! Proofs of the statements of 70_reset_and_hazards.md: the reset procedure (R231) and the bounds that the tick costs put on
TICK over every step (R241, R242). -/

namespace Sys2Proof.Machine

/-! ### The ticks of a step (R241) -/

/-- With DROP_TICKS 1 CALL costs 4 ticks and every other instruction that can complete costs 3 (R241). -/
theorem tickCost_between {cfg : Config} {i : Instr} (hd : cfg.dropTicks = 1) (hi : i ≠ .hlt) :
    3 ≤ tickCost cfg i ∧ tickCost cfg i ≤ 4 := by
  cases i with
  | hlt => exact absurd rfl hi
  | drop | dropr => simp [tickCost, hd]
  | _ => simp [tickCost]

/-- HLT's execute phase never leaves the machine running (R100). -/
theorem ne_hlt_of_exec_running {i : Instr} {s t : State} (h : exec i s = .next t) (hr : t.status = .running) :
    i ≠ .hlt := by
  rintro rfl
  obtain rfl := execHlt_cases h
  exact State.raise_status_ne_running _ _ hr

/-- A completed instruction is counted once and costs 3 or 4 ticks, its fetch and trailing tick included. -/
theorem step_ticks_of_running {s t : State} (hd : s.cfg.dropTicks = 1) (h : step s = .next t)
    (hr : t.status = .running) : t.icount = s.icount + 1 ∧ s.tick + 3 ≤ t.tick ∧ t.tick ≤ s.tick + 4 := by
  refine ⟨(instructionCount s t h).1 hr, ?_⟩
  obtain ⟨w, m, u, -, -, hu, hur, rfl⟩ := step_completed h hr
  have hcost := exec_tick_of_running hu hur
  obtain ⟨hlo, hhi⟩ := tickCost_between (cfg := (s.fetched w).cfg) hd (ne_hlt_of_exec_running hu hur)
  have hfetch : (s.fetched w).tick = s.tick + 1 := rfl
  simp only [State.countInstr_tick, State.addTicks_tick]
  omega

/-- Only HLT and GET_VAL end a run without a fault, and of the two only GET_VAL counts a tick before it raises. -/
theorem exec_tick_le_of_ended {i : Instr} {s t : State} (h : exec i s = .next t) (hs : t.status ≠ s.status)
    (hf : t.isFaulted = false) : t.tick ≤ s.tick + 1 := by
  rcases exec_status h with hkept | ⟨k, hk⟩ | ⟨rfl, -⟩ | ⟨rfl, -, -⟩
  · exact absurd hkept hs
  · simp [State.isFaulted, hk] at hf
  · rcases execHlt_cases h with rfl; simp
  · rcases execGetVal_outcomes h with rfl | ⟨c, rfl⟩ | ⟨-, -, v, rest, -, rfl⟩ | ⟨-, v, rfl⟩ <;> simp

/-- A step that ends the run without a fault counts no instruction and at most two ticks: its fetch, and GET_VAL's access to
the empty input queue. -/
theorem step_ticks_of_ended {s t : State} (h : step s = .next t) (hended : t.Ended) (hf : t.isFaulted = false) :
    t.icount = s.icount ∧ s.tick ≤ t.tick ∧ t.tick ≤ s.tick + 2 := by
  obtain ⟨-, -, htick⟩ := stepKeepsDeviceHistory s t h
  refine ⟨(instructionCount s t h).2 hended, htick, ?_⟩
  obtain ⟨hr, ⟨-, rfl⟩ | ⟨-, -, rfl⟩ | ⟨w, -, -, -, rfl⟩ | ⟨w, m, u, -, -, -, hu, hend⟩⟩ := step_cases h
  · exact Nat.le_add_right _ _
  · cases hf
  · cases hf
  · rcases hend with ⟨hne, rfl⟩ | ⟨hrun, rfl⟩
    · have hne' : t.status ≠ (s.fetched w).status := fun hkept => hne (hkept.trans hr)
      exact exec_tick_le_of_ended hu hne' hf
    · exact absurd hrun hended

/-- Settles O56: a completed instruction adds one to ICOUNT and 3 or 4 to TICK, and the step that ends the run without a
fault adds nothing to ICOUNT and at most 2 to TICK. -/
theorem stepKeepsTickBounds : Obligations.StepKeepsTickBounds := by
  intro s t hd hlo hhi h
  have hrunning (hr : t.status = .running) : 3 * t.icount ≤ t.tick ∧ t.tick ≤ 4 * t.icount := by
    obtain ⟨hcount, hmin, hmax⟩ := step_ticks_of_running hd h hr
    omega
  refine ⟨hrunning, fun hf => ?_⟩
  by_cases hr : t.status = .running
  · exact (hrunning hr).imp_right (Nat.le_add_right_of_le ·)
  · obtain ⟨hcount, hmin, hmax⟩ := step_ticks_of_ended h hr hf
    omega

/-! ### The reset procedure (R231) -/

/-- An image that fits leaves the reset state with the parameters, the entry address, the cells and the input codes. -/
theorem State.load_of_fits {cfg : Config} {cells : List Word} (h : cells.length ≤ cfg.memSize) (entry : Word)
    (codes : List Word) : State.load cfg (entry :: cells) codes =
      some { State.reset with cfg := cfg, pc := entry, mem := Cells.ofList cells, input := codes } := if_pos h

theorem State.load_of_too_long {cfg : Config} {cells : List Word} (h : cfg.memSize < cells.length) (entry : Word)
    (codes : List Word) : State.load cfg (entry :: cells) codes = none := if_neg h.not_ge

/-- Bytes that are an image are loaded as its Words. -/
theorem State.loadBytes_of_decodeImage {bytes : List Byte} {image : List Word} (h : decodeImage bytes = some image)
    (cfg : Config) (codes : List Word) : State.loadBytes cfg bytes codes = State.load cfg image codes := by
  simp [State.loadBytes, h]

/-- Settles O1: the two malformed images, the image too long, the state of one that fits, and the default MEM_SIZE. -/
theorem loadFollowsResetProcedure : Obligations.LoadFollowsResetProcedure := by
  refine fun cfg bytes codes => ⟨fun h => ?partialWord, fun h => State.loadBytes_of_decodeImage h cfg codes,
    fun entry cells h => ?_⟩
  case partialWord => simp [State.loadBytes, h]
  rw [State.loadBytes_of_decodeImage h]
  refine ⟨fun hlong => State.load_of_too_long hlong entry codes,
    fun hfits => ⟨_, State.load_of_fits hfits entry codes, rfl, rfl, fun a w hw => ?cell, fun a ha => ?above, ?_⟩,
    _, State.load_of_fits le_rfl entry codes, rfl⟩
  case cell => simp [Cells.read_ofList, hw]
  case above => simp [Cells.read_ofList, ha]
  exact ⟨rfl, rfl, rfl, rfl, rfl, rfl, rfl, rfl, rfl⟩

end Sys2Proof.Machine
end
